-- ==== Sys2Proof/Word.lean ====
section
/-! DEFINITION. The words, levels and index types of the block: the 32-bit command word (R61), the 8-bit segment
code (R5, R71), bits and three-valued levels (R35), and the two index spaces, channels and lines (R30, R31, R32). -/

namespace Sys2Proof

/-- A command word (R61). It is a value, not a byte sequence. -/
abbrev Word := BitVec 32

/-- An 8-bit segment code (R71); all 256 values are legal. -/
abbrev Code := BitVec 8

/-- A definite level of a line: `false` is 0 (low), `true` is 1 (high). -/
abbrev Bit := Bool

/-- A level 0, 1 or X (R35): X is the absence of a value, `none`; it never turns into 0 or 1 by itself. -/
abbrev Level := Option Bit

/-- A line identifier 0..36 (R31). -/
abbrev Line := Fin 37

/-- A display line, identifiers 0..26 (R31, R32): `3 * ch + 0` data, `+ 1` clock, `+ 2` master reset. -/
abbrev DisplayLine := Fin 27

/-- A button line by position: `b` is line `27 + b` (R31); 0..8 are the cell buttons, 9 is the reset button. -/
abbrev ButtonLine := Fin 10

/-- A display channel index 0..8 (R5); the board cell and the cell button of the same index share it. -/
abbrev Channel := Fin 9

/-- A stage of a shift register (R13): stage 0 is nearest the serial data input, stage 7 the farthest. -/
abbrev Stage := Fin 8

/-- The eight stages of one register, stage `k` at position `k` (R13). -/
abbrev Stages := Vector Level 8

end Sys2Proof
end

