-- ==== Sys2Proof/Syntax.lean ====
section
/-! DEFINITION. The seven operations of the block (R60, R62), one constructor per row of spec/opcode_table.json. -/

namespace Sys2Proof

/-- An operation with its operands as the command word carries them: an index is the 8-bit field `IDX`, a count of
milliseconds the 16-bit field `ARG`, a segment code `ARG[7:0]` (R61, R63, R64). Which operands are in range is
`Instr.WellFormed`. -/
inductive Instr
  /-- `CFGO l`: `configureAsOutput(id)` (R100). -/
  | cfgo (l : BitVec 8)
  /-- `CFGI l`: `configureAsInput(id)` (R101). -/
  | cfgi (l : BitVec 8)
  /-- `INIT ch`: `initChannel(channel)` (R81). -/
  | init (ch : BitVec 8)
  /-- `WSEG ch, code`: `writeSegment(channel, code)` (R80). -/
  | wseg (ch : BitVec 8) (code : Code)
  /-- `PRESSED l`: `isPressed(line) -> bool` (R90). -/
  | pressed (l : BitVec 8)
  /-- `AWREL l, t`: `awaitRelease(line, timeoutMs)` (R91). -/
  | awrel (l : BitVec 8) (t : BitVec 16)
  /-- `DELAY n`: `delay(milliseconds)` (R102). -/
  | delay (n : BitVec 16)
deriving DecidableEq, Repr

end Sys2Proof
end

