-- ==== Sys2Proof/WellFormed.lean ====
section
/-! DEFINITION. The reasons a command is refused (R146) and the check of an operation's operands: index ranges and line
classes (R46, R63, checks 4 and 5 of R68). -/

namespace Sys2Proof

/-- The closed list of refusal reasons, in the order of their codes (R146). -/
inductive Reason
  /-- `OPC` is 0x0 or 0x8..0xF; any word. -/
  | badOpcode
  /-- `ZA`, or a part of `IDX` or `ARG` that must be zero, is not; all seven operations. -/
  | reservedNonZero
  /-- channel index above 8, or line identifier above 36; every operation but `DELAY`. -/
  | indexOutOfRange
  /-- `CFGO` of a button line; `CFGI`, `PRESSED` or `AWREL` of a display line. -/
  | lineClassMismatch
  /-- `WSEG` or `INIT` on a channel with a line it drives not configured as output. -/
  | lineNotOutput
  /-- `PRESSED` or `AWREL` on a line not configured as input. -/
  | lineNotInput
deriving DecidableEq, Repr

/-- A channel index must be in 0..8 (R63). -/
def channelReason (ch : BitVec 8) : Option Reason :=
  if ch.toNat ≤ 8 then none else some .indexOutOfRange

/-- A display-line operand must be in 0..26; 27..36 is the other class, 37 and above names no line (R63). -/
def displayLineReason (l : BitVec 8) : Option Reason :=
  if 36 < l.toNat then some .indexOutOfRange else if 26 < l.toNat then some .lineClassMismatch else none

/-- A button-line operand must be in 27..36; 0..26 is the other class, 37 and above names no line (R63). -/
def buttonLineReason (l : BitVec 8) : Option Reason :=
  if 36 < l.toNat then some .indexOutOfRange else if l.toNat < 27 then some .lineClassMismatch else none

/-- The first of checks 4 and 5 of R68 that an operation's operands fail, if any. -/
def Instr.operandReason : Instr → Option Reason
  | .cfgo l => displayLineReason l
  | .cfgi l => buttonLineReason l
  | .init ch => channelReason ch
  | .wseg ch _ => channelReason ch
  | .pressed l => buttonLineReason l
  | .awrel l _ => buttonLineReason l
  | .delay _ => none

/-- The operands are in range and of the class the operation needs (R46, R63). -/
abbrev Instr.WellFormed (i : Instr) : Prop := i.operandReason = none

end Sys2Proof
end

