-- ==== Sys2Proof/Decode.lean ====
section
/-! DEFINITION. The command word: its fields (R61), the opcode map (R62), the decoder (checks 1 to 3 of R68, total, rejecting
by name), the encoder, and the admission of a word by checks 1 to 5 (R66). -/

namespace Sys2Proof

/-- `OPC = w[31:28]` (R61). -/
def opcField (w : Word) : BitVec 4 := w.extractLsb' 28 4

/-- `ZA = w[27:24]`, reserved (R61, R65). -/
def zaField (w : Word) : BitVec 4 := w.extractLsb' 24 4

/-- `IDX = w[23:16]` (R61, R63). -/
def idxField (w : Word) : BitVec 8 := w.extractLsb' 16 8

/-- `ARG = w[15:0]` (R61, R64). -/
def argField (w : Word) : BitVec 16 := w.extractLsb' 0 16

/-- `ARG[15:8]`, reserved in `WSEG` (R64). -/
def argHigh (w : Word) : BitVec 8 := w.extractLsb' 8 8

/-- `ARG[7:0]`, the segment code of `WSEG` (R64). -/
def argLow (w : Word) : Code := w.extractLsb' 0 8

/-- Checks 2 and 3 of R68: the operation, if `ZA` and its must-be-zero parts are 0. -/
def whenReservedZero (w : Word) (mustBeZero : Bool) (i : Instr) : Except Reason Instr :=
  if zaField w = 0 ∧ mustBeZero then .ok i else .error .reservedNonZero

/-- The decoder: checks 1 to 3 of R68 in their order, which depend on the word's form alone; it is total (R66). -/
def decode (w : Word) : Except Reason Instr :=
  match (opcField w).toNat with
  | 1 => whenReservedZero w (argField w == 0) (.cfgo (idxField w))
  | 2 => whenReservedZero w (argField w == 0) (.cfgi (idxField w))
  | 3 => whenReservedZero w (argField w == 0) (.init (idxField w))
  | 4 => whenReservedZero w (argHigh w == 0) (.wseg (idxField w) (argLow w))
  | 5 => whenReservedZero w (argField w == 0) (.pressed (idxField w))
  | 6 => whenReservedZero w true (.awrel (idxField w) (argField w))
  | 7 => whenReservedZero w (idxField w == 0) (.delay (argField w))
  | _ => .error .badOpcode

/-- A command word from its four fields, high to low (R61). -/
def commandWord (opc : BitVec 4) (idx : BitVec 8) (arg : BitVec 16) : Word :=
  opc ++ 0#4 ++ idx ++ arg

/-- The encoder: the word of an operation (R62, and the "Encoding" paragraph of each operation's rule). -/
def encode : Instr → Word
  | .cfgo l => commandWord 0x1 l 0
  | .cfgi l => commandWord 0x2 l 0
  | .init ch => commandWord 0x3 ch 0
  | .wseg ch code => commandWord 0x4 ch (0#8 ++ code)
  | .pressed l => commandWord 0x5 l 0
  | .awrel l t => commandWord 0x6 l t
  | .delay n => commandWord 0x7 0 n

/-- The `mask` column of the opcode map (R62): the bits of a word that the operation fixes. -/
def tableMask : Instr → Word
  | .cfgo _ | .cfgi _ | .init _ | .pressed _ => 0xFF00FFFF
  | .wseg _ _ => 0xFF00FF00
  | .awrel _ _ => 0xFF000000
  | .delay _ => 0xFFFF0000

/-- The `match` column of the opcode map (R62): the value of those bits. -/
def tableMatch : Instr → Word
  | .cfgo _ => 0x10000000
  | .cfgi _ => 0x20000000
  | .init _ => 0x30000000
  | .wseg _ _ => 0x40000000
  | .pressed _ => 0x50000000
  | .awrel _ _ => 0x60000000
  | .delay _ => 0x70000000

/-- Checks 1 to 5 of R68, which "depend on the word alone": the operation with in-range operands that a word is, or the
one reason it is refused for (R66). -/
def admitWord (w : Word) : Except Reason Instr :=
  match decode w with
  | .error r => .error r
  | .ok i => match i.operandReason with
    | some r => .error r
    | none => .ok i

/-- The instruction the decoder reads from a table word of `nbits` bits (the bits above are 0); a command is one 32-bit
word (R61), so anything that does not fit 32 bits is no command. -/
def decodeTableWord (nbits w : Nat) : Option Instr :=
  if w % 2 ^ nbits < 2 ^ 32 then
    match decode (BitVec.ofNat 32 (w % 2 ^ nbits)) with
    | .ok i => some i
    | .error _ => none
  else none

end Sys2Proof
end

