-- ==== Sys2Proof/Config.lean ====
section
/-! DEFINITION. Configuration: the named parameters of R6, R7 and R8, which no operation writes (R23), with the
defaults the spec gives, and the free values the spec leaves open (opaque constants without a body). -/

namespace Sys2Proof

/-- A display segment under the names of R71: `a` at the top, then clockwise to `f`, `g` in the middle, `dp` the point. -/
inductive Segment
  | a | b | c | d | e | f | g | dp
deriving DecidableEq, Repr

/-- The parameters of the step relation (R6, R7, R8, R23). Durations are milliseconds. -/
structure Config where
  /-- `T_CLK`: delay between two clock edges (R6, R169). -/
  tClk : Nat
  /-- `T_MR`: hold of the master-reset pulse (R6, R171). -/
  tMr : Nat
  /-- `T_DEBOUNCE`: time between the two samples of `PRESSED` (R6, R90). -/
  tDebounce : Nat
  /-- `T_POLL`: time between two samples of `AWREL` (R6, R91). -/
  tPoll : Nat
  /-- `T_RELEASE`: the host's release timeout; it travels in the 16-bit `ARG` (R6, R128). -/
  tRelease : BitVec 16
  /-- `T_FLASH`: the host's flash hold; it travels in the 16-bit `ARG` (R6, R130). -/
  tFlash : BitVec 16
  /-- `N_FLASH`: the host's flash repetitions (R6, R130). -/
  nFlash : Nat
  /-- `GLYPH_H` (R7). -/
  glyphH : Code
  /-- `GLYPH_0` (R7). -/
  glyph0 : Code
  /-- `ASSERT_LEVEL(l)`: the level that counts as asserted on each button line (R8, R43). -/
  assertLevel : Vector Bit 10
  /-- `SEGMAP(k)`: the segment driven by stage `k` (R8, R71). -/
  segMap : Vector Segment 8
  /-- `PIN_MAP(l)`: the physical pin of line `l` (R8, R33); no rule depends on it. -/
  pinMap : Vector Nat 37
deriving DecidableEq, Repr

/-- `BLANK`, "all segments off" (R7). -/
def Config.blank : Code := 0x00

/-- The legal configurations (R6, R7, R8): clock and reset pulses of at least 1 ms, glyphs that are not blank, a
segment map that is a bijection and a pin map that is injective. -/
abbrev Config.Legal (c : Config) : Prop :=
  1 ≤ c.tClk ∧ 1 ≤ c.tMr ∧ c.glyphH ≠ Config.blank ∧ c.glyph0 ≠ Config.blank ∧
    c.segMap.toList.Nodup ∧ c.pinMap.toList.Nodup

/-- FREE VALUE (log 6): `ASSERT_LEVEL` is open ("Do not assume active-low or active-high buttons", N7); this constant
stands for it in the state after reset. -/
opaque Config.openAssertLevel : Vector Bit 10

/-- FREE VALUE (log 9): `PIN_MAP` is open; a permutation of the naturals, so that the pins of the 37 lines differ. -/
opaque Config.openPin : Equiv.Perm Nat

/-- FREE VALUE (log 5): the level the `n`-th free sample returns: "each sample is a free draw under no law" (R18). -/
opaque Config.freeSample : Nat → Bit

/-- FREE VALUE (log 5): `ENV(l, t)` of R18 for line `l` at `TIME = t`, where a scripted environment says nothing. -/
opaque Config.freeEnv : Nat → Nat → Bit

/-- FREE VALUE (log 13): what the host takes `RES` to be when it reads it while it is X, at command index `n`. -/
opaque Config.freeRead : Nat → Bit

/-- The parameters at the values of the spec's tables (R6, R7, R71); `ASSERT_LEVEL` and `PIN_MAP` stay open. The glyph
codes and the segment map are the spec's general-knowledge defaults (PRESUMED, log 8). -/
def Config.default : Config where
  tClk := 1
  tMr := 1
  tDebounce := 20
  tPoll := 1
  tRelease := 1000#16
  tFlash := 500#16
  nFlash := 3
  glyphH := 0x76
  glyph0 := 0x3F
  assertLevel := Config.openAssertLevel
  segMap := #v[.a, .b, .c, .d, .e, .f, .g, .dp]
  pinMap := Vector.ofFn fun l => Config.openPin l.val

end Sys2Proof
end

