-- ==== Sys2Proof/Machine/State.lean ====
section
/-! DEFINITION. The state of the block (R10), of the model's input environment (R18), of the host when the whole system is
modelled (R111), the reasons a step can stop, and the state after a hardware reset (R25, R165). -/

namespace Sys2Proof.Machine

/-- The direction of a line (R11). -/
inductive Dir
  | unconfigured | input | output
deriving DecidableEq, Repr

/-- An entry of `TRACE` (R17). Lines carry the identifiers of R31. -/
inductive Event
  /-- `Cfg(l, dir)`: a line changed direction. -/
  | cfg (l : Line) (d : Dir)
  /-- `Set(l, v)`: an output line was driven to `v`. -/
  | set (l : DisplayLine) (v : Bit)
  /-- `Sample(l, v)`: an input line was read and returned `v`. -/
  | sample (l : Line) (v : Bit)
  /-- `Delay(n)`. -/
  | delay (n : Nat)
deriving DecidableEq, Repr

/-- From `TIME = since` on, the environment holds line `line` at `level`, until a later entry of the list says otherwise. -/
structure EnvChange where
  line : Line
  since : Nat
  level : Bit
deriving DecidableEq, Repr

/-- The input environment (R18), the model's own representation (log 5). -/
inductive Oracle
  /-- The levels the coming samples return, in order; when the script is used up each sample is a free draw. -/
  | perSample (script : List Bit)
  /-- The deterministic `ENV(l, t)`: the last change of the list that applies; a free value where none does. -/
  | timed (changes : List EnvChange)
deriving DecidableEq, Repr

/-- A player (R110). -/
inductive Player
  | playerH | playerO
deriving DecidableEq, Repr

/-- A cell state (R110): `Empty`, or a player's. -/
inductive Cell
  | empty
  | taken (p : Player)
deriving DecidableEq, Repr

/-- The terminal-status flag `STATUS` (R111). -/
inductive Status
  | inProgress
  | won (p : Player)
  | draw
deriving DecidableEq, Repr

/-- The Board, row-major (R110). -/
abbrev Board := Vector Cell 9

/-- The Game Session, the host's only mutable state (R111). -/
structure Session where
  board : Board
  cur : Player
  status : Status
deriving DecidableEq, Repr

/-- The host's program point, between two batches of commands (R125 to R131). -/
inductive Phase
  /-- Process start: `BOOT` is next (R125). -/
  | boot
  /-- The top of an outer cycle (R126). -/
  | cycle
  /-- `PRESSED B(i)` of the scan has returned; its `RES` is looked at next (R127). -/
  | scanned (i : Channel)
  /-- The accepted move is rendered and its button awaited; win and draw are evaluated next (R128). -/
  | moved
  /-- `PRESSED RSTB` has returned; its `RES` is looked at next (R131). -/
  | resetSampled
deriving DecidableEq, Repr

/-- The host: the Game Engine and Control Loop of files 43 and 44. -/
structure GameHost where
  session : Session
  phase : Phase
deriving DecidableEq, Repr

/-- The reasons a step stops the machine: none. "The block raises no synchronous exception. No operation can fail, fault
or report an error" (R145); nobody raises one, and a command the spec refuses is a next state (R147). Safe. -/
inductive Fault
deriving DecidableEq, Repr

/-- The reasons the model gives an instruction no meaning. -/
inductive Refusal
  /-- Raised by an arm of `exec` whose instruction has no meaning yet; no arm does. Safe. -/
  | notModelled (mnemonic : String)
deriving DecidableEq, Repr

/-- The whole state. The first block is the spec's (R10, R21, R146), the others are the model's own carriers of what stands
outside the block: configuration (R23, log 7), environment (R18, log 5), the host (R60, R111, logs 1 and 12). -/
structure State where
  /-- `DIR[l]` (R11). -/
  dir : Vector Dir 37
  /-- `OUT[l]` (R12). -/
  out : Vector Level 27
  /-- `SR[ch]` (R13). -/
  sr : Vector Stages 9
  /-- `RES` (R15). -/
  res : Level
  /-- `TIME`, bookkeeping (R16). -/
  time : Nat
  /-- `TRACE`, bookkeeping, oldest event first (R17). -/
  trace : List Event
  /-- `REFUSED`, bookkeeping, sticky (R19). -/
  refused : Option Reason
  /-- The word that the refusal in `refused` records (R146, log 4). -/
  refusedWord : Option Word
  /-- `cp`, commands completed or refused so far (R21, log 11). -/
  cp : Nat
  /-- The parameters; no step writes them (R23, log 7). -/
  cfg : Config
  /-- The input environment (R18, log 5). -/
  oracle : Oracle
  /-- How many free samples were drawn (log 5). -/
  draws : Nat
  /-- Command words the host has issued and the block has not taken, next first (R60, log 1). -/
  commands : List Word
  /-- The control loop, when the whole system is modelled; `none` for the block alone (R4, log 12). -/
  host : Option GameHost
deriving DecidableEq, Repr

/-- All eight stages X: the "undefined" content (R13, R25). -/
def Stages.unknown : Stages := Vector.replicate 8 none

/-- The Game Session at process start: board empty, `PlayerH` to move, no terminal status (R111, R116). -/
def Session.start : Session where
  board := Vector.replicate 9 .empty
  cur := .playerH
  status := .inProgress

/-- The block after a hardware reset under a given configuration and environment, with no host attached (R25, R165). -/
def State.powerOn (cfg : Config) (oracle : Oracle) : State where
  dir := Vector.replicate 37 .unconfigured
  out := Vector.replicate 27 none
  sr := Vector.replicate 9 Stages.unknown
  res := none
  time := 0
  trace := []
  refused := none
  refusedWord := none
  cp := 0
  cfg := cfg
  oracle := oracle
  draws := 0
  commands := []
  host := none

/-- The machine right after reset (R25, R165): the block alone, default parameters (log 7), every sample a free draw
(log 5). "After hardware reset the block does nothing until the host issues its first command." -/
def State.reset : State := State.powerOn Config.default (.perSample [])

/-- The whole system after power-on: the same block, with the control loop at its entry point (R125, R165, log 12). -/
def State.systemReset (cfg : Config) (oracle : Oracle) : State :=
  { State.powerOn cfg oracle with host := some { session := Session.start, phase := .boot } }

end Sys2Proof.Machine
end

