-- ==== Sys2Proof/Machine/Operands.lean ====
section
/-! DEFINITION. Operands: the numbering of the lines (R31) and the checks 4 and 5 of R68 that turn an operand field into a
channel, a display line or a button line, or give the reason it is refused. -/

namespace Sys2Proof.Machine

/-- `D(ch)`, the data line of a channel: identifier `3 * ch` (R31). -/
def dataLine (ch : Channel) : DisplayLine := ⟨3 * ch.val, by omega⟩

/-- `C(ch)`, the clock line of a channel: identifier `3 * ch + 1` (R31). -/
def clockLine (ch : Channel) : DisplayLine := ⟨3 * ch.val + 1, by omega⟩

/-- `R(ch)`, the master-reset line of a channel: identifier `3 * ch + 2` (R31). -/
def resetLine (ch : Channel) : DisplayLine := ⟨3 * ch.val + 2, by omega⟩

/-- `l div 3`, the channel a display line belongs to (R36, R38, R103). -/
def lineChannel (l : DisplayLine) : Channel := ⟨l.val / 3, by omega⟩

/-- A display line as a line of the line space (R31). -/
def displayId (l : DisplayLine) : Line := ⟨l.val, by omega⟩

/-- A button line as a line of the line space: `27 + b` (R31). -/
def buttonId (b : ButtonLine) : Line := ⟨27 + b.val, by omega⟩

/-- `B(i)`, the button of cell `i` (R31). -/
def cellButton (i : Channel) : ButtonLine := ⟨i.val, by omega⟩

/-- `RSTB`, the reset button, line 36 (R31). -/
def resetButton : ButtonLine := 9

/-- A channel operand, `INIT` and `WSEG` (check 4 of R68, R63). -/
def channelOperand (ch : BitVec 8) : Except Reason Channel :=
  if h : ch.toNat < 9 then .ok ⟨ch.toNat, h⟩ else .error .indexOutOfRange

/-- A display-line operand, `CFGO` (checks 4 and 5 of R68, R63). -/
def displayOperand (l : BitVec 8) : Except Reason DisplayLine :=
  if h : l.toNat < 27 then .ok ⟨l.toNat, h⟩
  else if l.toNat < 37 then .error .lineClassMismatch else .error .indexOutOfRange

/-- A button-line operand, `CFGI`, `PRESSED` and `AWREL` (checks 4 and 5 of R68, R63). -/
def buttonOperand (l : BitVec 8) : Except Reason ButtonLine :=
  if l.toNat < 27 then .error .lineClassMismatch
  else if h : l.toNat < 37 then .ok ⟨l.toNat - 27, by omega⟩ else .error .indexOutOfRange

/-- The operand field that names a channel. -/
def channelField (ch : Channel) : BitVec 8 := BitVec.ofNat 8 ch.val

/-- The operand field that names a line. -/
def lineField (l : Line) : BitVec 8 := BitVec.ofNat 8 l.val

end Sys2Proof.Machine
end

