-- ==== Sys2Proof/Machine/Ops.lean ====
section
/-! DEFINITION. The named operations over the state: its accessors, `join` (R35), the port's primitives (R36, R37, R38, R42,
R43), the register's reaction to its lines (R39, R40), the delay (R44), and refusing a command (R146, R147). -/

namespace Sys2Proof.Machine

/-! ### Accessors -/

/-- `DIR[l]`. -/
def State.dirAt (s : State) (l : Line) : Dir := s.dir[l.val]

/-- `OUT[l]`. -/
def State.outAt (s : State) (l : DisplayLine) : Level := s.out[l.val]

/-- `SR[ch]`. -/
def State.srAt (s : State) (ch : Channel) : Stages := s.sr[ch.val]

/-- `DIR[l] <- d`. -/
def State.setDir (l : Line) (d : Dir) (s : State) : State := { s with dir := s.dir.set l.val d }

/-- `OUT[l] <- v`. -/
def State.setOut (l : DisplayLine) (v : Level) (s : State) : State := { s with out := s.out.set l.val v }

/-- `SR[ch] <- r`. -/
def State.setSr (ch : Channel) (r : Stages) (s : State) : State := { s with sr := s.sr.set ch.val r }

/-- Append an event to `TRACE` (R17). -/
def State.log (e : Event) (s : State) : State := { s with trace := s.trace ++ [e] }

/-! ### Levels and register contents -/

/-- `join(a, b)`: `a` where both agree on a known level, X otherwise (R35). -/
def join (a b : Level) : Level := if a = b then a else none

/-- `join` stage by stage (R35). -/
def joinStages (a b : Stages) : Stages := Vector.ofFn fun k : Fin 8 => join a[k.val] b[k.val]

/-- The cleared register `0b00000000` (R39). -/
def clearedStages : Stages := Vector.replicate 8 (some false)

/-- `{ SR[6:0], d }`: stage `k` moves to stage `k + 1`, stage 7 is lost, `d` enters stage 0 (R13, R40). -/
def shiftIn (d : Level) (r : Stages) : Stages :=
  Vector.ofFn fun k : Fin 8 => if h : k.val = 0 then d else r[k.val - 1]

/-- The register whose stage `k` holds bit `k` of a code, all stages known (R13, R84). -/
def codeStages (code : Code) : Stages := Vector.ofFn fun k : Fin 8 => some (code.getLsbD k.val)

/-- What a definite rising edge makes of the register, by the level of the master-reset line: released, a shift; held, no
change; X, the join of the cleared and the shifted content (R40). -/
def loadedStages (rst d : Level) (r : Stages) : Stages :=
  match rst with
  | some true => shiftIn d r
  | some false => r
  | none => joinStages clearedStages (shiftIn d r)

/-- What driving the clock line high makes of the register, by the clock line's previous level: 0, a definite edge; 1, no
edge; X, an uncertain edge (R40). -/
def clockedStages (old rst d : Level) (r : Stages) : Stages :=
  match old with
  | some false => loadedStages rst d r
  | some true => r
  | none => joinStages r (loadedStages rst d r)

/-! ### The port's primitives -/

/-- `configureAsOutput(l)` (R36). -/
def configureAsOutput (l : DisplayLine) (s : State) : State :=
  if s.dirAt (displayId l) = .output then s
  else (((s.setDir (displayId l) .output).setOut l none).setSr (lineChannel l) Stages.unknown).log
    (.cfg (displayId l) .output)

/-- `configureAsInput(l)` (R37). -/
def configureAsInput (b : ButtonLine) (s : State) : State :=
  if s.dirAt (buttonId b) = .input then s
  else (s.setDir (buttonId b) .input).log (.cfg (buttonId b) .input)

/-- The register's reaction to its master-reset line being driven to `v`: low clears it, release leaves it (R39). -/
def masterReset (ch : Channel) (v : Bit) (s : State) : State :=
  if v then s else s.setSr ch clearedStages

/-- The register's reaction to its clock line being driven from `old` to `v` (R40). -/
def clockEdge (ch : Channel) (old : Level) (v : Bit) (s : State) : State :=
  if v then
    s.setSr ch (clockedStages old (s.outAt (resetLine ch)) (s.outAt (dataLine ch)) (s.srAt ch))
  else s

/-- `setLine(l, v)` (R38): the level, the event, then the attached register's reaction. A data line has none (R41). -/
def setLine (l : DisplayLine) (v : Bit) (s : State) : State :=
  if l = resetLine (lineChannel l) then
    masterReset (lineChannel l) v ((s.setOut l (some v)).log (.set l v))
  else if l = clockLine (lineChannel l) then
    clockEdge (lineChannel l) (s.outAt l) v ((s.setOut l (some v)).log (.set l v))
  else (s.setOut l (some v)).log (.set l v)

/-- `delay(n)` (R44). -/
def delay (n : Nat) (s : State) : State := ({ s with time := s.time + n }).log (.delay n)

/-! ### The input oracle and the load primitive -/

/-- `ENV(l, t)` of a scripted environment: the last entry of the list for the line that has begun by `t`; a free value where
there is none (R18, log 5). -/
def envLevel (changes : List EnvChange) (l : Line) (t : Nat) : Bit :=
  changes.foldl (fun v c => if c.line = l ∧ c.since ≤ t then c.level else v) (Config.freeEnv l.val t)

/-- The level the oracle gives the next sample of a line (R18, R42). -/
def State.nextSample (s : State) (b : ButtonLine) : Bit :=
  match s.oracle with
  | .perSample (v :: _) => v
  | .perSample [] => Config.freeSample s.draws
  | .timed changes => envLevel changes (buttonId b) s.time

/-- The oracle has given a sample: the script moves on, or a free draw is used up (log 5). -/
def State.sampleTaken (s : State) : State :=
  match s.oracle with
  | .perSample (_ :: rest) => { s with oracle := .perSample rest }
  | .perSample [] => { s with draws := s.draws + 1 }
  | .timed _ => s

/-- `readLine(l)`, the state after it: the sample is appended to `TRACE` (R42). Its value is `State.nextSample`. -/
def readLine (b : ButtonLine) (s : State) : State :=
  s.sampleTaken.log (.sample (buttonId b) (s.nextSample b))

/-- `asserted(l, v)`: `v = ASSERT_LEVEL(l)` (R43). -/
def asserted (cfg : Config) (b : ButtonLine) (v : Bit) : Bool := v == cfg.assertLevel[b.val]

/-! ### Refusing a command -/

/-- The code of a refusal reason (R146). -/
def reasonCode : Reason → Nat
  | .badOpcode => 1
  | .reservedNonZero => 2
  | .indexOutOfRange => 3
  | .lineClassMismatch => 4
  | .lineNotOutput => 5
  | .lineNotInput => 6

/-- Refuse the command `w`: nothing changes but the sticky mark, which keeps the first reason and its word (R19, R146,
R147). The machine goes on with the next command; there is no trap and no return from one (R147, R151). -/
def refuse (r : Reason) (w : Word) (s : State) : State :=
  match s.refused with
  | none => { s with refused := some r, refusedWord := some w }
  | some _ => s

/-- How an operation ends: its effect, or its refusal. Both are next states; no operation faults (R145, R147). -/
def settle (i : Instr) (s : State) : Except Reason State → Host.Outcome State Fault Refusal
  | .ok t => .next t
  | .error r => .next (refuse r (encode i) s)

/-- `DIR[l] = Output`, for a display line (check 6 of R68). -/
def State.isOutput (s : State) (l : DisplayLine) : Bool := s.dirAt (displayId l) == .output

/-- `DIR[l] = Input`, for a button line (check 6 of R68). -/
def State.isInput (s : State) (b : ButtonLine) : Bool := s.dirAt (buttonId b) == .input

end Sys2Proof.Machine
end

