-- ==== Sys2Proof/Machine/Display.lean ====
section
/-! DEFINITION. The Serial Display Driver: `WSEG` (R80) and `INIT` (R81). -/

namespace Sys2Proof.Machine

/-- One bit of a `WSEG`: data first, while the clock is low; clock high; hold; clock low; hold (R80). -/
def sendBit (ch : Channel) (b : Bit) (s : State) : State :=
  delay s.cfg.tClk (setLine (clockLine ch) false
    (delay s.cfg.tClk (setLine (clockLine ch) true (setLine (dataLine ch) b s))))

/-- The top `n` of the remaining bits `code[n-1]`, ..., `code[0]`, most significant first (R34, R80). -/
def sendBits (ch : Channel) (code : Code) : Nat → State → State
  | 0, s => s
  | n + 1, s => sendBits ch code n (sendBit ch (code.getLsbD n) s)

/-- The body of `WSEG`: `for i = 7 downto 0` (R80). -/
def writeSegment (ch : Channel) (code : Code) (s : State) : State := sendBits ch code 8 s

/-- The body of `INIT`: the master-reset pulse, then a blank write (R81). -/
def initChannel (ch : Channel) (s : State) : State :=
  writeSegment ch Config.blank
    (setLine (resetLine ch) true (delay s.cfg.tMr (setLine (resetLine ch) false s)))

/-- `WSEG ch, code` (R80). The master-reset line is not part of the precondition (C11). -/
def execWseg (ch : BitVec 8) (code : Code) (s : State) : Host.Outcome State Fault Refusal :=
  settle (.wseg ch code) s <|
    match channelOperand ch with
    | .error r => .error r
    | .ok c =>
      if s.isOutput (dataLine c) ∧ s.isOutput (clockLine c) then .ok (writeSegment c code s)
      else .error .lineNotOutput

/-- `INIT ch` (R81). -/
def execInit (ch : BitVec 8) (s : State) : Host.Outcome State Fault Refusal :=
  settle (.init ch) s <|
    match channelOperand ch with
    | .error r => .error r
    | .ok c =>
      if s.isOutput (dataLine c) ∧ s.isOutput (clockLine c) ∧ s.isOutput (resetLine c) then
        .ok (initChannel c s)
      else .error .lineNotOutput

end Sys2Proof.Machine
end

