-- ==== Sys2Proof/Machine/Port.lean ====
section
/-! DEFINITION. The port and timing operations: `CFGO` (R100), `CFGI` (R101) and `DELAY` (R102). -/

namespace Sys2Proof.Machine

/-- `CFGO l` (R100). -/
def execCfgo (l : BitVec 8) (s : State) : Host.Outcome State Fault Refusal :=
  settle (.cfgo l) s <|
    match displayOperand l with
    | .error r => .error r
    | .ok d => .ok (configureAsOutput d s)

/-- `CFGI l` (R101). -/
def execCfgi (l : BitVec 8) (s : State) : Host.Outcome State Fault Refusal :=
  settle (.cfgi l) s <|
    match buttonOperand l with
    | .error r => .error r
    | .ok b => .ok (configureAsInput b s)

/-- `DELAY n` (R102): no precondition, no operand out of range. -/
def execDelay (n : BitVec 16) (s : State) : Host.Outcome State Fault Refusal :=
  settle (.delay n) s (.ok (delay n.toNat s))

end Sys2Proof.Machine
end

