-- ==== Sys2Proof/Machine/Flags.lean ====
section
/-! DEFINITION. The one flag of the block, the result bit `RES` (R15): written by `PRESSED`, read by the host. -/

namespace Sys2Proof.Machine

/-- `RES <- v` (R15). -/
def setRes (v : Bit) (s : State) : State := { s with res := some v }

/-- The host reads `RES` (R15): 1 means "pressed" (R72). `RES` is X only before the first `PRESSED`, when the host of R127 and
R131 does not read it; what it would then take is a free value (log 13). -/
def State.pressedFlag (s : State) : Bool :=
  match s.res with
  | some v => v
  | none => Config.freeRead s.cp

end Sys2Proof.Machine
end

