-- ==== Sys2Proof/Machine/Sampler.lean ====
section
/-! DEFINITION. The Input Sampler: `PRESSED` (R90) and `AWREL` (R91). -/

namespace Sys2Proof.Machine

/-- The oracle's next sample of the line reads asserted (R42, R43). -/
def State.readsAsserted (s : State) (b : ButtonLine) : Bool := asserted s.cfg b (s.nextSample b)

/-- The second half of `PRESSED`, after an asserted first sample: sample again, and that decides (R90). -/
def resample (b : ButtonLine) (s : State) : State := setRes (s.readsAsserted b) (readLine b s)

/-- The body of `PRESSED` (R90). -/
def isPressed (b : ButtonLine) (s : State) : State :=
  if s.readsAsserted b then resample b (delay s.cfg.tDebounce (readLine b s))
  else setRes false (readLine b s)

/-- The body of `AWREL` with `rem` polls left (R91): the counter is tested before the line is sampled. -/
def pollRelease (b : ButtonLine) : Nat → State → State
  | 0, s => s
  | rem + 1, s =>
    if s.readsAsserted b then pollRelease b rem (delay s.cfg.tPoll (readLine b s)) else readLine b s

/-- `PRESSED l` (R90). -/
def execPressed (l : BitVec 8) (s : State) : Host.Outcome State Fault Refusal :=
  settle (.pressed l) s <|
    match buttonOperand l with
    | .error r => .error r
    | .ok b => if s.isInput b then .ok (isPressed b s) else .error .lineNotInput

/-- `AWREL l, t` (R91). -/
def execAwrel (l : BitVec 8) (t : BitVec 16) (s : State) : Host.Outcome State Fault Refusal :=
  settle (.awrel l t) s <|
    match buttonOperand l with
    | .error r => .error r
    | .ok b => if s.isInput b then .ok (pollRelease b t.toNat s) else .error .lineNotInput

end Sys2Proof.Machine
end

