-- ==== Sys2Proof/Machine/Dispatch.lean ====
section
/-! DEFINITION. One arm per operation: each calls its own meaning. -/

namespace Sys2Proof.Machine

def exec (i : Instr) (s : State) : Host.Outcome State Fault Refusal :=
  match i with
  | .cfgo l => Sys2Proof.Machine.execCfgo l s
  | .cfgi l => Sys2Proof.Machine.execCfgi l s
  | .init ch => Sys2Proof.Machine.execInit ch s
  | .wseg ch code => Sys2Proof.Machine.execWseg ch code s
  | .pressed l => Sys2Proof.Machine.execPressed l s
  | .awrel l t => Sys2Proof.Machine.execAwrel l t s
  | .delay n => Sys2Proof.Machine.execDelay n s

end Sys2Proof.Machine
end

