-- ==== Sys2Proof/Machine/GameEngine.lean ====
section
/-! DEFINITION. The host's Game Engine (R110 to R118): pure functions on the board and the session; it calls no operation of
the block and touches no line. -/

namespace Sys2Proof.Machine

/-- `board[i]`. -/
def cellAt (board : Board) (i : Channel) : Cell := board[i.val]

/-- `applyMove(board, i, p)`: `some` the board after an accepted move, `none` for `Rejected`, which leaves the board as it is
(R113). -/
def applyMove (board : Board) (i : Channel) (p : Player) : Option Board :=
  if cellAt board i = .empty then some (board.set i.val (.taken p)) else none

/-- The eight winning lines in their priority order: rows, columns, diagonals (R114). -/
def winningLines : List (Channel × Channel × Channel) :=
  [(0, 1, 2), (3, 4, 5), (6, 7, 8), (0, 3, 6), (1, 4, 7), (2, 5, 8), (0, 4, 8), (2, 4, 6)]

/-- The player who holds all three cells of a line, if any (R114). -/
def lineWinner (board : Board) : Channel × Channel × Channel → Option Player
  | (a, b, c) =>
    match cellAt board a with
    | .empty => none
    | .taken p => if cellAt board b = .taken p ∧ cellAt board c = .taken p then some p else none

/-- `evaluateWin(board)`: the first line found whose three cells are equal and not `Empty` (R114). -/
def evaluateWin (board : Board) : Option Player := winningLines.findSome? (lineWinner board)

/-- `evaluateDraw(board)`: every cell is not `Empty` (R115). -/
def evaluateDraw (board : Board) : Bool := board.toList.all (· != .empty)

/-- `reset(session)`, "regardless of prior state" (R116). -/
def resetSession (_ : Session) : Session where
  board := Vector.replicate 9 .empty
  cur := .playerH
  status := .inProgress

/-- `other(p)` (R118). -/
def other : Player → Player
  | .playerH => .playerO
  | .playerO => .playerH

/-- `glyph(cell)` (R118). -/
def glyph (cfg : Config) : Cell → Code
  | .empty => Config.blank
  | .taken .playerH => cfg.glyphH
  | .taken .playerO => cfg.glyph0

/-- What a move that was just accepted does to the session: win first, then draw, otherwise the player toggles (R117, R128). -/
def afterMove (session : Session) : Session :=
  match evaluateWin session.board with
  | some p => { session with status := .won p }
  | none =>
    if evaluateDraw session.board then { session with status := .draw }
    else { session with cur := other session.cur }

end Sys2Proof.Machine
end

