-- ==== Sys2Proof/Machine/ControlLoop.lean ====
section
/-! DEFINITION. The host's Control Loop (R125 to R134) and its command sequences, the pseudo-instructions of R70. The host
acts only between commands, when everything it issued has returned (R133): one turn looks at `RES` and the session, updates
the session, and issues the next batch of commands (log 12). -/

namespace Sys2Proof.Machine

/-- All channels (or cells), ascending (R129, D26). -/
def channels : List Channel := [0, 1, 2, 3, 4, 5, 6, 7, 8]

/-- The fixed command sequences the host issues (R70). -/
inductive Pseudo
  | boot
  | render (ch : Channel) (cell : Cell)
  | renderAll (p : Player)
  | blankAll
  | restoreAll (board : Board)
  | flash (board : Board)
deriving DecidableEq, Repr

/-- `WSEG ch, glyph(cell)` (R132). -/
def renderCell (cfg : Config) (cell : Cell) (ch : Channel) : Instr := .wseg (channelField ch) (glyph cfg cell)

/-- `BOOT`: inputs, outputs, initialise (R125; the order inside each phase is D24). -/
def bootCommands : List Instr :=
  channels.map (fun i => .cfgi (lineField (buttonId (cellButton i)))) ++
    [.cfgi (lineField (buttonId resetButton))] ++
    channels.flatMap (fun ch =>
      [.cfgo (lineField (displayId (dataLine ch))), .cfgo (lineField (displayId (clockLine ch))),
        .cfgo (lineField (displayId (resetLine ch)))]) ++
    channels.map (fun ch => .init (channelField ch))

/-- `BLANK_ALL` (R132). -/
def blankAllCommands (cfg : Config) : List Instr := channels.map (renderCell cfg .empty)

/-- `RENDER_ALL p` (R129). -/
def renderAllCommands (cfg : Config) (p : Player) : List Instr := channels.map (renderCell cfg (.taken p))

/-- `RESTORE_ALL` (R132). -/
def restoreAllCommands (cfg : Config) (board : Board) : List Instr :=
  channels.map fun ch => renderCell cfg (cellAt board ch) ch

/-- One repetition of the flash (R130). -/
def flashOnce (cfg : Config) (board : Board) : List Instr :=
  blankAllCommands cfg ++ [.delay cfg.tFlash] ++ restoreAllCommands cfg board ++ [.delay cfg.tFlash]

/-- `FLASH`: `N_FLASH` repetitions (R130). -/
def flashCommands (cfg : Config) (board : Board) : List Instr :=
  (List.replicate cfg.nFlash (flashOnce cfg board)).flatten

/-- The commands a pseudo-instruction stands for (R70). -/
def expand (cfg : Config) : Pseudo → List Instr
  | .boot => bootCommands
  | .render ch cell => [renderCell cfg cell ch]
  | .renderAll p => renderAllCommands cfg p
  | .blankAll => blankAllCommands cfg
  | .restoreAll board => restoreAllCommands cfg board
  | .flash board => flashCommands cfg board

/-- `PRESSED` of a button (R127, R131). -/
def pressedCommand (b : ButtonLine) : Instr := .pressed (lineField (buttonId b))

/-- `AWREL` of a button with the host's release timeout (R128, R131). -/
def awrelCommand (cfg : Config) (b : ButtonLine) : Instr := .awrel (lineField (buttonId b)) cfg.tRelease

/-- What the host does at one turn: its session and program point after it, and the commands it issues. -/
structure Turn where
  host : GameHost
  issues : List Instr
deriving DecidableEq, Repr

/-- `RESET_CHECK` begins: the reset button is sampled, in every cycle (R126, R131). -/
def sampleReset (session : Session) (before : List Instr) : Turn where
  host := { session := session, phase := .resetSampled }
  issues := before ++ [pressedCommand resetButton]

/-- The scan goes on to the button after cell `i`, or ends (R127). -/
def scanNext (session : Session) (i : Channel) : Turn :=
  if h : i.val + 1 < 9 then
    { host := { session := session, phase := .scanned ⟨i.val + 1, h⟩ },
      issues := [pressedCommand (cellButton ⟨i.val + 1, h⟩)] }
  else sampleReset session []

/-- `RES` of the scan's button `i` is in: an accepted press renders the cell and awaits release, any other lets the scan go on
(R127, R128). -/
def scanDecide (cfg : Config) (pressed : Bool) (session : Session) (i : Channel) : Turn :=
  if pressed then
    match applyMove session.board i session.cur with
    | some board =>
      { host := { session := { session with board := board }, phase := .moved },
        issues := [renderCell cfg (.taken session.cur) i, awrelCommand cfg (cellButton i)] }
    | none => scanNext session i
  else scanNext session i

/-- The commands an evaluated move leads to: the winner's glyph everywhere, the flash, or none (R128). -/
def celebrate (cfg : Config) (session : Session) : List Instr :=
  match session.status with
  | .won p => renderAllCommands cfg p
  | .draw => flashCommands cfg session.board
  | .inProgress => []

/-- The control loop, one turn (R125 to R131). -/
def hostTurn (cfg : Config) (pressed : Bool) (h : GameHost) : Turn :=
  match h.phase with
  | .boot => { host := { session := Session.start, phase := .cycle }, issues := bootCommands }
  | .cycle =>
    if h.session.status = .inProgress then
      { host := { session := h.session, phase := .scanned 0 }, issues := [pressedCommand (cellButton 0)] }
    else sampleReset h.session []
  | .scanned i => scanDecide cfg pressed h.session i
  | .moved => sampleReset (afterMove h.session) (celebrate cfg (afterMove h.session))
  | .resetSampled =>
    if pressed then
      { host := { session := resetSession h.session, phase := .cycle },
        issues := blankAllCommands cfg ++ [awrelCommand cfg resetButton] }
    else { host := { session := h.session, phase := .cycle }, issues := [] }

/-- What happens when no command is waiting: the host, if there is one, takes its turn; the block alone does nothing (R165,
log 2). No event occurs and no time passes. -/
def betweenCommands (s : State) : State :=
  match s.host with
  | none => s
  | some h =>
    { s with
      host := some (hostTurn s.cfg s.pressedFlag h).host
      commands := (hostTurn s.cfg s.pressedFlag h).issues.map encode }

end Sys2Proof.Machine
end

