-- ==== Sys2Proof/Machine/Fetch.lean ====
section
/-! DEFINITION. Taking the next command the host has issued (R60, R133), and the command index (R21). -/

namespace Sys2Proof.Machine

/-- The next command word and the state after it is taken: `cp` advances "by exactly one per command" (R21, R104), executed
or refused; `none` when the host has issued none. -/
def takeCommand (s : State) : Option (Word × State) :=
  match s.commands with
  | [] => none
  | w :: rest => some (w, { s with commands := rest, cp := s.cp + 1 })

/-- `s` with the command word `w` next in line (log 1). -/
def State.issue (w : Word) (s : State) : State := { s with commands := w :: s.commands }

end Sys2Proof.Machine
end

