-- ==== Sys2Proof/Machine/Step.lean ====
section
/-! DEFINITION. The step: take the next command, decode it, run it to completion (R48, R150); a word that decodes to no
operation is refused (R66); with no command waiting the host takes its turn, or the block does nothing (R165). -/

namespace Sys2Proof.Machine

/-- One step. -/
def step (s : State) : Host.Outcome State Fault Refusal :=
  match takeCommand s with
  | none => .next (betweenCommands s)
  | some (w, t) =>
    match decode w with
    | .ok i => exec i t
    | .error r => .next (refuse r w t)

/-- `s` with the instruction of a table word placed where the step takes its next command (log 1). -/
def State.withFetchWord (s : State) (nbits w : Nat) : State := s.issue (BitVec.ofNat 32 (w % 2 ^ nbits))

end Sys2Proof.Machine
end

