-- ==== Sys2Proof/Machine/Assembly.lean ====
section
/-! DEFINITION. The textual form of a command (R69): mnemonic, then operands separated by commas, `--` starts a comment, one
command a line. Texts are lists of characters. What the spec leaves open of the form is log 17. -/

namespace Sys2Proof.Machine

/-- A line of text. -/
abbrev Text := List Char

/-- A space or a tab. -/
def isBlank (c : Char) : Bool := c == ' ' || c == '\t'

/-- The text before the first `--` (R69). -/
def cutComment : Text → Text
  | [] => []
  | [c] => [c]
  | c :: d :: rest => if c = '-' ∧ d = '-' then [] else c :: cutComment (d :: rest)

/-- The text without the blanks at its ends. -/
def trimText (t : Text) : Text := ((t.dropWhile isBlank).reverse.dropWhile isBlank).reverse

/-- The pieces of a text between its commas. -/
def splitCommas : Text → List Text
  | [] => [[]]
  | c :: rest =>
    if c = ',' then [] :: splitCommas rest
    else match splitCommas rest with
      | [] => [[c]]
      | p :: ps => (c :: p) :: ps

/-- The value of a hexadecimal digit; a decimal digit is one below ten. -/
def digitValue (c : Char) : Option Nat :=
  if '0' ≤ c ∧ c ≤ '9' then some (c.toNat - '0'.toNat)
  else if 'a' ≤ c ∧ c ≤ 'f' then some (c.toNat - 'a'.toNat + 10)
  else if 'A' ≤ c ∧ c ≤ 'F' then some (c.toNat - 'A'.toNat + 10)
  else none

/-- The number that digits of a base spell after the number `acc`. -/
def readDigits (base : Nat) : Text → Nat → Option Nat
  | [], acc => some acc
  | c :: rest, acc =>
    match digitValue c with
    | some d => if d < base then readDigits base rest (acc * base + d) else none
    | none => none

/-- A number of at least one digit that is below `bound`. -/
def readNumber (base bound : Nat) (t : Text) : Option Nat :=
  match t with
  | [] => none
  | _ :: _ =>
    match readDigits base t 0 with
    | some n => if n < bound then some n else none
    | none => none

/-- `<ch>`: a decimal number (R69); one above 8 is refused at admission (check 4 of R68). -/
def readChannel (t : Text) : Option (BitVec 8) := (readNumber 10 256 t).map (BitVec.ofNat 8)

/-- `<line>`: a line name, or a decimal identifier (R69, R31). -/
def readLineId (t : Text) : Option (BitVec 8) :=
  if t = "RSTB".toList then some 36#8
  else match t with
    | [k, c] =>
      match digitValue c with
      | some d =>
        if 8 < d then readChannel t
        else if k = 'D' then some (BitVec.ofNat 8 (3 * d))
        else if k = 'C' then some (BitVec.ofNat 8 (3 * d + 1))
        else if k = 'R' then some (BitVec.ofNat 8 (3 * d + 2))
        else if k = 'B' then some (BitVec.ofNat 8 (27 + d))
        else readChannel t
      | none => none
    | _ => readChannel t

/-- `<code>`: a name of a code, or an 8-bit number, "usually written `0x..`" (R69). Which other forms a number may take R69 leaves
open; the model's DESIGN CHOICE (log 17) is hexadecimal after `0x` and binary after `0b`, the prefixes of 00_scope.md section 6,
and decimal without a prefix. -/
def readCode (cfg : Config) (t : Text) : Option Code :=
  if t = "BLANK".toList then some Config.blank
  else if t = "GLYPH_H".toList then some cfg.glyphH
  else if t = "GLYPH_0".toList then some cfg.glyph0
  else match t with
    | '0' :: 'x' :: digits => (readNumber 16 256 digits).map (BitVec.ofNat 8)
    | '0' :: 'b' :: digits => (readNumber 2 256 digits).map (BitVec.ofNat 8)
    | _ => (readNumber 10 256 t).map (BitVec.ofNat 8)

/-- `<ms>`: a decimal number 0..65535 (R69). -/
def readMs (t : Text) : Option (BitVec 16) := (readNumber 10 65536 t).map (BitVec.ofNat 16)

/-- An operation from its mnemonic and operand texts (R69). -/
def readOperation (cfg : Config) (name : Text) (ops : List Text) : Option Instr :=
  match ops with
  | [a] =>
    if name = "CFGO".toList then (readLineId a).map .cfgo
    else if name = "CFGI".toList then (readLineId a).map .cfgi
    else if name = "INIT".toList then (readChannel a).map .init
    else if name = "PRESSED".toList then (readLineId a).map .pressed
    else if name = "DELAY".toList then (readMs a).map .delay
    else none
  | [a, b] =>
    if name = "WSEG".toList then
      match readChannel a, readCode cfg b with
      | some ch, some code => some (.wseg ch code)
      | _, _ => none
    else if name = "AWREL".toList then
      match readLineId a, readMs b with
      | some l, some t => some (.awrel l t)
      | _, _ => none
    else none
  | _ => none

/-- The command a line of text spells, if it spells one (R69). -/
def parseCommand (cfg : Config) (line : Text) : Option Instr :=
  readOperation cfg ((trimText (cutComment line)).takeWhile (!isBlank ·))
    ((splitCommas ((trimText (cutComment line)).dropWhile (!isBlank ·))).map trimText)

/-- The commands of a text, one a line; a line with nothing but blanks and a comment holds none (R69). -/
def parseCommands (cfg : Config) : List Text → Option (List Instr)
  | [] => some []
  | line :: rest =>
    if trimText (cutComment line) = [] then parseCommands cfg rest
    else match parseCommand cfg line, parseCommands cfg rest with
      | some i, some is => some (i :: is)
      | _, _ => none

/-- A number in decimal. -/
def decText (n : Nat) : Text := Nat.toDigits 10 n

/-- A line by its name where it has one, otherwise by its decimal identifier (R69, R31). -/
def lineText (l : BitVec 8) : Text :=
  if l.toNat < 27 then
    (if l.toNat % 3 = 0 then 'D' else if l.toNat % 3 = 1 then 'C' else 'R') :: decText (l.toNat / 3)
  else if l.toNat < 36 then 'B' :: decText (l.toNat - 27)
  else if l.toNat = 36 then "RSTB".toList
  else decText l.toNat

/-- A code as `0x` and its hexadecimal digits. -/
def codeText (code : Code) : Text := '0' :: 'x' :: Nat.toDigits 16 code.toNat

/-- The textual form of an operation (R69). -/
def commandText : Instr → Text
  | .cfgo l => "CFGO ".toList ++ lineText l
  | .cfgi l => "CFGI ".toList ++ lineText l
  | .init ch => "INIT ".toList ++ decText ch.toNat
  | .wseg ch code => "WSEG ".toList ++ decText ch.toNat ++ ", ".toList ++ codeText code
  | .pressed l => "PRESSED ".toList ++ lineText l
  | .awrel l t => "AWREL ".toList ++ lineText l ++ ", ".toList ++ decText t.toNat
  | .delay n => "DELAY ".toList ++ decText n.toNat

end Sys2Proof.Machine
end

