-- ==== Sys2Proof/Machine/Observe.lean ====
section
/-! DEFINITION. What the outside world sees of the block: the lit segments (R14), the bits a write transmits (R82), and the
reading of `TRACE` (R17): replaying a prefix of it gives the lines and registers at that moment, between or inside operations
(R9, R83). Nothing here is read by an operation. -/

namespace Sys2Proof.Machine

/-- `LIT[ch][k] = SR[ch][k]` (R14): lit at 1, dark at 0, unknown at X. There is no output latch (C2). -/
def State.lit (s : State) (ch : Channel) (k : Stage) : Level := (s.srAt ch)[k.val]

/-- The segments of display `ch` that are lit for certain, in stage order: stage `k` drives segment `SEGMAP(k)` (R14, R71). -/
def State.litSegments (s : State) (ch : Channel) : List Segment :=
  (List.finRange 8).filterMap fun k : Stage => if s.lit ch k = some true then some s.cfg.segMap[k.val] else none

/-- The part of the state that `TRACE` determines: directions, levels, register contents, elapsed delay. -/
structure Observed where
  dir : Vector Dir 37
  out : Vector Level 27
  sr : Vector Stages 9
  time : Nat
deriving DecidableEq, Repr

/-- The observed part of a state. -/
def State.observed (s : State) : Observed := { dir := s.dir, out := s.out, sr := s.sr, time := s.time }

/-- Before any event: nothing configured, nothing known (R25). -/
def Observed.start : Observed where
  dir := Vector.replicate 37 .unconfigured
  out := Vector.replicate 27 none
  sr := Vector.replicate 9 Stages.unknown
  time := 0

/-- A line became an output (R36). -/
def Observed.becameOutput (o : Observed) (l : DisplayLine) : Observed :=
  { o with
    dir := o.dir.set l.val .output
    out := o.out.set l.val none
    sr := o.sr.set (l.val / 3) Stages.unknown }

/-- A line was driven (R38), seen by the register of channel `l div 3`: line `l mod 3 = 2` low clears it (R39), line
`l mod 3 = 1` driven high clocks it (R40), a data line does nothing to it (R41). -/
def Observed.driven (o : Observed) (l : DisplayLine) (v : Bit) : Observed :=
  { o with
    out := o.out.set l.val (some v)
    sr :=
      if l.val % 3 = 2 ∧ v = false then o.sr.set (l.val / 3) clearedStages
      else if h : l.val % 3 = 1 ∧ v = true then
        o.sr.set (l.val / 3) (clockedStages o.out[l.val] o.out[l.val + 1] o.out[l.val - 1] o.sr[l.val / 3])
      else o.sr }

/-- The effect of one event on what is observed. -/
def Observed.after (o : Observed) : Event → Observed
  | .cfg l .output => if h : l.val < 27 then o.becameOutput ⟨l.val, h⟩ else { o with dir := o.dir.set l.val .output }
  | .cfg l .input => { o with dir := o.dir.set l.val .input }
  | .cfg l .unconfigured => { o with dir := o.dir.set l.val .unconfigured }
  | .set l v => o.driven l v
  | .sample _ _ => o
  | .delay n => { o with time := o.time + n }

/-- What is observed after a list of events since reset (R17). -/
def replay (events : List Event) : Observed := events.foldl Observed.after Observed.start

/-- The register of channel `ch` right after the first `n` events: what its display shows at that moment (R9, R14, R83). -/
def State.shownAfter (s : State) (n : Nat) (ch : Channel) : Stages := (replay (s.trace.take n)).sr[ch.val]

/-- The bits transmitted to channel `ch`: the value of the `Set(D(ch), ·)` event that immediately precedes each
`Set(C(ch), 1)` event, in order (R82). -/
def transmitted (ch : Channel) : List Event → List Bit
  | .set l v :: .set m w :: rest =>
    if l = dataLine ch ∧ m = clockLine ch ∧ w = true then v :: transmitted ch (.set m w :: rest)
    else transmitted ch (.set m w :: rest)
  | _ :: rest => transmitted ch rest
  | [] => []

/-- The 40 events of a `WSEG ch, code`: eight groups of five, bit 7 first (R80). -/
def writeEvents (cfg : Config) (ch : Channel) (code : Code) : List Event :=
  [7, 6, 5, 4, 3, 2, 1, 0].flatMap fun i =>
    [.set (dataLine ch) (code.getLsbD i), .set (clockLine ch) true, .delay cfg.tClk,
      .set (clockLine ch) false, .delay cfg.tClk]

/-- The 43 events of an `INIT ch`: the master-reset pulse, then a blank write (R81). -/
def initEvents (cfg : Config) (ch : Channel) : List Event :=
  [.set (resetLine ch) false, .delay cfg.tMr, .set (resetLine ch) true] ++ writeEvents cfg ch Config.blank

/-- The sum of the arguments of the `Delay` events of a list (R16). -/
def delaySum : List Event → Nat
  | [] => 0
  | .delay n :: rest => n + delaySum rest
  | _ :: rest => delaySum rest

/-- The events a state's trace has gained over an earlier one. -/
def State.newEvents (s t : State) : List Event := t.trace.drop s.trace.length

/-- The number of `Sample` events in a list. -/
def sampleCount (events : List Event) : Nat :=
  (events.filter fun e => match e with | .sample _ _ => true | _ => false).length

/-- The level the environment gives the `k`-th sample (from 0) of a wait that polls the line every `T_POLL` (R18, R91): from the
script while it lasts, then a free draw, or `ENV(l, t)` at that instant (log 5). -/
def State.waitSample (s : State) (b : ButtonLine) (k : Nat) : Bit :=
  match s.oracle with
  | .perSample script => script.getD k (Config.freeSample (s.draws + (k - script.length)))
  | .timed changes => envLevel changes (buttonId b) (s.time + k * s.cfg.tPoll)

end Sys2Proof.Machine
end

