-- ==== Sys2Proof/Safety.lean ====
section
/-! DEFINITION. What claims are stated in: reachability, the invariants of the lines and registers, an initialised channel, the
state of a launched system, and what the displays must show. -/

namespace Sys2Proof.Machine

/-- The states some number of steps away from a state. -/
inductive Reaches (s : State) : State → Prop
  | start : Reaches s s
  | next {t u : State} : Reaches s t → step t = .next u → Reaches s u

/-- `n` steps from a state, stopping where a step stops. -/
def run : Nat → State → Host.Outcome State Fault Refusal
  | 0, s => .next s
  | n + 1, s =>
    match step s with
    | .next t => run n t
    | .fault f => .fault f
    | .refused r => .refused r

/-- No command of the run was refused: the premise of every claim about a run (R19, R147). -/
abbrev State.Clean (s : State) : Prop := s.refused = none

/-- What the lines of every reachable state satisfy. -/
structure LinesInv (s : State) : Prop where
  /-- "a display line is only ever `Unconfigured` or `Output`" (R11, R32). -/
  display : ∀ l : DisplayLine, s.dirAt (displayId l) ≠ .input
  /-- "a button line only ever `Unconfigured` or `Input`" (R11, R32). -/
  button : ∀ b : ButtonLine, s.dirAt (buttonId b) ≠ .output
  /-- `OUT[l]` is X "while `DIR[l] ≠ Output`" (R12). -/
  undriven : ∀ l : DisplayLine, s.dirAt (displayId l) ≠ .output → s.outAt l = none
  /-- Between operations no clock line is 1 (R80 corner case f, R170). -/
  clockIdle : ∀ ch : Channel, s.outAt (clockLine ch) ≠ some true
  /-- Between operations "the reset line is always 1 (or X before the channel's `INIT`)" (R171). -/
  resetIdle : ∀ ch : Channel, s.outAt (resetLine ch) ≠ some false

/-- The lines, the registers and the elapsed delay are what `TRACE` says (R16, R17). -/
def TraceInv (s : State) : Prop := s.observed = replay s.trace

/-- What an operation of the Serial Display Driver on channel `ch` leaves unchanged: everything but the channel's three levels,
its register, `TIME` and `TRACE` (the "State written" paragraphs of R80 and R81, R41). -/
structure DisplayFrame (ch : Channel) (s t : State) : Prop where
  dir : t.dir = s.dir
  out : ∀ l : DisplayLine, lineChannel l ≠ ch → t.outAt l = s.outAt l
  sr : ∀ c : Channel, c ≠ ch → t.srAt c = s.srAt c
  res : t.res = s.res
  refused : t.refused = s.refused
  refusedWord : t.refusedWord = s.refusedWord
  cp : t.cp = s.cp
  cfg : t.cfg = s.cfg
  oracle : t.oracle = s.oracle
  draws : t.draws = s.draws
  commands : t.commands = s.commands
  host : t.host = s.host

/-- What an operation of the Input Sampler leaves unchanged: everything but `RES`, `TIME`, `TRACE` and the oracle's own
fields (the "State written" paragraphs of R90 and R91). Whether it writes `RES` each statement says itself. -/
structure SamplerFrame (s t : State) : Prop where
  dir : t.dir = s.dir
  out : t.out = s.out
  sr : t.sr = s.sr
  refused : t.refused = s.refused
  refusedWord : t.refusedWord = s.refusedWord
  cp : t.cp = s.cp
  cfg : t.cfg = s.cfg
  commands : t.commands = s.commands
  host : t.host = s.host

/-- A channel that is ready for writes: its three lines are outputs, the clock is low and the master reset released (R84, R167). -/
structure ChannelReady (s : State) (ch : Channel) : Prop where
  data : s.isOutput (dataLine ch) = true
  clock : s.isOutput (clockLine ch) = true
  reset : s.isOutput (resetLine ch) = true
  clockLow : s.outAt (clockLine ch) = some false
  resetHigh : s.outAt (resetLine ch) = some true

/-- Every button line is an input and every channel is ready for writes: what `BOOT` brings about (R168). -/
structure Launched (s : State) : Prop where
  buttons : ∀ b : ButtonLine, s.isInput b = true
  channels : ∀ ch : Channel, ChannelReady s ch

/-- The commands the host issues after `BOOT`, with these operands only (R133). -/
inductive Operating (cfg : Config) : Instr → Prop
  | pressed (b : ButtonLine) : Operating cfg (pressedCommand b)
  | write (ch : Channel) (cell : Cell) : Operating cfg (renderCell cfg cell ch)
  | await (b : ButtonLine) : Operating cfg (awrelCommand cfg b)
  | hold : Operating cfg (.delay cfg.tFlash)

/-- What display `ch` must show between outer cycles: the winner's glyph everywhere after a win, the cell's glyph otherwise
(R111, R129, R130, R131). -/
def shownGlyph (cfg : Config) (session : Session) (ch : Channel) : Code :=
  match session.status with
  | .won p => glyph cfg (.taken p)
  | .inProgress => glyph cfg (cellAt session.board ch)
  | .draw => glyph cfg (cellAt session.board ch)

/-- The host is at the top of an outer cycle and everything it issued has returned (R126). -/
def AtCycleTop (s : State) (session : Session) : Prop :=
  s.commands = [] ∧ s.host = some { session := session, phase := .cycle }

/-- How many cells are taken. -/
def takenCount (board : Board) : Nat := (board.toList.filter (· != .empty)).length

/-- The status says what the board holds, and whose turn it is agrees with the number of moves (R112 c, R117, R119 d, C8). -/
def StatusAgrees (session : Session) : Prop :=
  match session.status with
  | .won p => evaluateWin session.board = some p ∧ session.cur = p
  | .draw => evaluateWin session.board = none ∧ evaluateDraw session.board = true ∧ session.cur = .playerH
  | .inProgress => evaluateWin session.board = none ∧ evaluateDraw session.board = false ∧
      (session.cur = .playerH ↔ takenCount session.board % 2 = 0)

/-- A move is on the board and not evaluated yet: the status still says in progress, and only the mover can have a line (R128). -/
structure MovePending (session : Session) : Prop where
  status : session.status = .inProgress
  opponent : evaluateWin session.board ≠ some (other session.cur)
  turn : session.cur = .playerH ↔ takenCount session.board % 2 = 1

/-- What the session satisfies at each program point of the host (R126 to R131). -/
def GameHost.Inv (h : GameHost) : Prop :=
  match h.phase with
  | .boot => True
  | .cycle => StatusAgrees h.session
  | .scanned _ => StatusAgrees h.session ∧ h.session.status = .inProgress
  | .moved => MovePending h.session
  | .resetSampled => StatusAgrees h.session

/-- A host is attached, and its session is as its program point says. -/
def GameInv (s : State) : Prop := ∃ h, s.host = some h ∧ h.Inv

/-- A host is attached, and running the waiting commands to their end records no refusal and, once past process start, leaves
every line configured and every channel ready (R133, R168). -/
def CommandsInv (s : State) : Prop :=
  ∃ h t, s.host = some h ∧ run s.commands.length s = .next t ∧ t.refused = none ∧ (h.phase ≠ .boot → Launched t)

/-- A host is attached with its session in order, and running the waiting commands to their end records no refusal and, once past
process start, makes the displays show that session (R111, R128 to R133). -/
def DisplaysInv (s : State) : Prop :=
  ∃ h t, s.host = some h ∧ h.Inv ∧ run s.commands.length s = .next t ∧ t.refused = none ∧
    (h.phase ≠ .boot → Launched t ∧ ∀ ch, t.srAt ch = codeStages (shownGlyph s.cfg h.session ch))

end Sys2Proof.Machine
end

