-- ==== Sys2Proof/Certificates/Slice0/Obligations.lean ====
section
/-! DEFINITION. The statements for the provers, in the order of OBLIGATIONS.json: the command word and the step, reset, the
port's operations, the registers, the display driver, refusals, the sampler, the whole machine, and the host. -/

open Sys2Proof Sys2Proof.Machine

/-! ### The command word (R60 to R69) -/

/-- A word decodes to an operation with its operand fields exactly when it is that operation's encoding: no bit is dropped, each
word has one meaning (R61 to R65, the spec's decision D2). Decoding makes checks 1 to 3 of R68 only, which is the model's split of
them (log 10): an operand field out of range or of the wrong class decodes too, and R62 and R66 call that word no operation
(`AdmissionRunsChecksInOrder`). -/
def Obligations.DecodeInvertsEncode : Prop :=
  ∀ (w : Word) (i : Instr), decode w = .ok i ↔ encode i = w

/-- The five checks that depend on the word alone, in their order, over the numeric fields of the word; every word is one
operation or is refused with one reason (R62, R63, R66, R68, the spec's decisions D2 and D17). -/
def Obligations.AdmissionRunsChecksInOrder : Prop :=
  ∀ w : Word,
    let opc := w.toNat / 2 ^ 28
    let za := w.toNat / 2 ^ 24 % 16
    let idx := w.toNat / 2 ^ 16 % 256
    let arg := w.toNat % 2 ^ 16
    if opc = 0 ∨ 7 < opc then admitWord w = .error .badOpcode
    else if za ≠ 0 then admitWord w = .error .reservedNonZero
    else if opc ∈ [1, 2, 3, 5] ∧ arg ≠ 0 ∨ opc = 4 ∧ arg / 256 ≠ 0 ∨ opc = 7 ∧ idx ≠ 0 then
      admitWord w = .error .reservedNonZero
    else if opc ∈ [3, 4] ∧ 8 < idx ∨ opc ∈ [1, 2, 5, 6] ∧ 36 < idx then
      admitWord w = .error .indexOutOfRange
    else if opc = 1 ∧ 26 < idx ∨ opc ∈ [2, 5, 6] ∧ idx < 27 then
      admitWord w = .error .lineClassMismatch
    else ∃ i : Instr, i.WellFormed ∧ encode i = w ∧ admitWord w = .ok i

/-- The encoding examples of 30_encoding.md section 8 decode to the operations beside them. -/
def Obligations.ExampleWordsDecode : Prop :=
  decode 0x10000000 = .ok (.cfgo 0) ∧ decode 0x10010000 = .ok (.cfgo 1) ∧
  decode 0x101A0000 = .ok (.cfgo 26) ∧ decode 0x201B0000 = .ok (.cfgi 27) ∧
  decode 0x20240000 = .ok (.cfgi 36) ∧ decode 0x30080000 = .ok (.init 8) ∧
  decode 0x40000076 = .ok (.wseg 0 0x76) ∧ decode 0x4004003F = .ok (.wseg 4 0x3F) ∧
  decode 0x501F0000 = .ok (.pressed 31) ∧ decode 0x601F03E8 = .ok (.awrel 31 1000) ∧
  decode 0x700001F4 = .ok (.delay 500)

/-- The textual form the model prints for an operation reads back as that operation (R69, decision D2; the printed form is the
model's choice, log 17). -/
def Obligations.TextFormReadsBack : Prop :=
  ∀ (cfg : Config) (i : Instr), parseCommand cfg (commandText i) = some i

/-! ### The step (R48, R60, R104, R145, R147, R165) -/

/-- A step takes the next command and runs what it decodes to; the command index advances by one (R21, R48, R60, R104). That
the commands not yet taken stand in a list is the model's choice (log 1), and so is that `cp` advances before the meaning runs
(log 11). -/
def Obligations.StepRunsDecodedCommand : Prop :=
  ∀ (s : State) (w : Word) (rest : List Word) (i : Instr), s.commands = w :: rest → decode w = .ok i →
    step s = exec i { s with commands := rest, cp := s.cp + 1 }

/-- A step refuses a word that decodes to no operation, records the word, and goes on to the next command (R66, R146, R147). The
model's choices: the list of waiting commands (log 1), that the recorded word is the first refusal's (log 4), `cp` (log 11). -/
def Obligations.StepRefusesUndecodableWord : Prop :=
  ∀ (s : State) (w : Word) (rest : List Word) (r : Reason), s.commands = w :: rest → decode w = .error r →
    step s = .next { s with
      commands := rest
      cp := s.cp + 1
      refused := s.refused.or (some r)
      refusedWord := if s.refused = none then some w else s.refusedWord }

/-- With no command waiting, the block alone does nothing (R165, decision D19; log 2), and with a host attached the step is the
host's turn, which moves the session, the program point and the commands, and nothing of the block (R9, R24, R133; log 12). The list of
waiting commands is log 1. -/
def Obligations.NothingWaitingLeavesTheBlock : Prop :=
  ∀ s : State, s.commands = [] →
    (s.host = none → step s = .next s) ∧
    (∀ h : GameHost, s.host = some h →
      step s = .next { s with
        host := some (hostTurn s.cfg s.pressedFlag h).host
        commands := (hostTurn s.cfg s.pressedFlag h).issues.map encode })

/-- A table word placed by `withFetchWord` is the very next instruction the step runs (log 1; that `cp` advances first is log 11). -/
def Obligations.PlacedWordRunsNext : Prop :=
  ∀ (s : State) (nbits w : Nat) (i : Instr), decodeTableWord nbits w = some i →
    step (s.withFetchWord nbits w) = exec i { s with cp := s.cp + 1 }

/-- No operation and no step fails or faults: each answers a next state. Derived: R145 says it of operations, that a refused
command goes on is R147 with decision D17 (log 3), and idle steps and host turns are the model's (logs 2 and 12). -/
def Obligations.NoOperationFails : Prop :=
  (∀ (i : Instr) (s : State), ∃ t, exec i s = .next t) ∧ ∀ s : State, ∃ t, step s = .next t

/-! ### Reset (R25, R165) -/

/-- After a hardware reset every line is unconfigured, every level, stage and the result X, the bookkeeping empty (R25, the
spec's decisions D5, D13, D15, D17, D19, D29). -/
def Obligations.ResetKnowsNothing : Prop :=
  (∀ l : Line, State.reset.dirAt l = .unconfigured) ∧ (∀ l : DisplayLine, State.reset.outAt l = none) ∧
  (∀ (ch : Channel) (k : Stage), State.reset.lit ch k = none) ∧ State.reset.res = none ∧
  State.reset.time = 0 ∧ State.reset.trace = [] ∧ State.reset.refused = none

/-- The invariants of the lines and of `TRACE` hold after reset, and the invariants of the host at its entry point, whatever the
configuration and the environment (the host is log 12). -/
def Obligations.InvariantsHoldAfterReset : Prop :=
  ∀ (cfg : Config) (oracle : Oracle),
    LinesInv (State.powerOn cfg oracle) ∧ TraceInv (State.powerOn cfg oracle) ∧
    GameInv (State.systemReset cfg oracle) ∧ CommandsInv (State.systemReset cfg oracle) ∧
    DisplaysInv (State.systemReset cfg oracle)

/-! ### The port and timing operations (R100, R101, R102) -/

/-- `CFGO l`, whole: nothing for a line that is already an output; otherwise direction, level X, register X, one event
(R36, R100; the spec's decision D18). The equations state the frame. -/
def Obligations.CfgoMakesLineOutput : Prop :=
  ∀ (s : State) (l : BitVec 8) (d : DisplayLine), l.toNat = d.val →
    (s.dirAt (displayId d) = .output → exec (.cfgo l) s = .next s) ∧
    (s.dirAt (displayId d) ≠ .output →
      exec (.cfgo l) s = .next { s with
        dir := s.dir.set d.val .output
        out := s.out.set d.val none
        sr := s.sr.set (d.val / 3) Stages.unknown
        trace := s.trace ++ [.cfg (displayId d) .output] })

/-- `CFGI l`, whole: nothing for a line that is already an input; otherwise direction and one event (R37, R101; the spec's
decision D18). The equations state the frame. -/
def Obligations.CfgiMakesLineInput : Prop :=
  ∀ (s : State) (l : BitVec 8) (b : ButtonLine), l.toNat = 27 + b.val →
    (s.dirAt (buttonId b) = .input → exec (.cfgi l) s = .next s) ∧
    (s.dirAt (buttonId b) ≠ .input →
      exec (.cfgi l) s = .next { s with
        dir := s.dir.set (27 + b.val) .input
        trace := s.trace ++ [.cfg (buttonId b) .input] })

/-- `DELAY n`, whole (R102): its word, its effect and frame in every state, and the words of its opcode that are refused. -/
def Obligations.DelayPassesTime : Prop :=
  (∀ n : BitVec 16, (encode (.delay n)).toNat = 0x70000000 + n.toNat) ∧
  (∀ (s : State) (n : BitVec 16),
    exec (.delay n) s = .next { s with
      time := s.time + n.toNat
      trace := s.trace ++ [.delay n.toNat] }) ∧
  (∀ w : Word, opcField w = 7 → idxField w ≠ 0 ∨ zaField w ≠ 0 → decode w = .error .reservedNonZero)

/-! ### The attached registers and the line primitives (R38 to R42) -/

/-- Driving the master-reset line low clears the register whatever it held, releasing it leaves the register; nothing else moves
but the level and `TRACE` (R38, R39; decision D6 and general knowledge G2). -/
def Obligations.MasterResetClearsRegister : Prop :=
  ∀ (s : State) (ch : Channel),
    setLine (resetLine ch) false s = { s with
      out := s.out.set (3 * ch.val + 2) (some false)
      sr := s.sr.set ch.val (Vector.replicate 8 (some false))
      trace := s.trace ++ [.set (resetLine ch) false] } ∧
    setLine (resetLine ch) true s = { s with
      out := s.out.set (3 * ch.val + 2) (some true)
      trace := s.trace ++ [.set (resetLine ch) true] }

/-- What driving the clock line high does to each stage, by the previous clock level and the master-reset level: a definite edge
shifts, is ignored in reset, or is joined with the cleared state; a clock already high is no edge; an uncertain edge keeps what
both outcomes agree on (R35, R40; decision D6 and general knowledge G3). -/
def Obligations.RisingClockEdgeShifts : Prop :=
  ∀ (s : State) (ch : Channel) (k : Stage),
    let shifted : Level := if h : k.val = 0 then s.outAt (dataLine ch) else s.lit ch ⟨k.val - 1, by omega⟩
    let t := setLine (clockLine ch) true s
    (s.outAt (clockLine ch) = some false → s.outAt (resetLine ch) = some true → t.lit ch k = shifted) ∧
    (s.outAt (clockLine ch) = some false → s.outAt (resetLine ch) = some false → t.lit ch k = s.lit ch k) ∧
    (s.outAt (clockLine ch) = some false → s.outAt (resetLine ch) = none →
      t.lit ch k = if shifted = some false then some false else none) ∧
    (s.outAt (clockLine ch) = some true → t.lit ch k = s.lit ch k) ∧
    (s.outAt (clockLine ch) = none → ∀ v : Bit, t.lit ch k = some v ↔
      s.lit ch k = some v ∧
        (setLine (clockLine ch) true (s.setOut (clockLine ch) (some false))).lit ch k = some v)

/-- The events and operations that do not touch a register (R41): the data line, a falling or absent clock edge, releasing the
reset, delays, samples, and everything done to another channel; so an operation moves a register only if it is an `INIT` or
`WSEG` of that channel, or the first `CFGO` of one of its lines. -/
def Obligations.RegistersHoldOtherwise : Prop :=
  (∀ (s : State) (ch : Channel),
    (∀ v, (setLine (dataLine ch) v s).sr = s.sr) ∧
    (setLine (clockLine ch) false s).sr = s.sr ∧
    (s.outAt (clockLine ch) = some true → (setLine (clockLine ch) true s).sr = s.sr) ∧
    (setLine (resetLine ch) true s).sr = s.sr ∧
    (∀ n, (delay n s).sr = s.sr) ∧ (∀ b, (readLine b s).sr = s.sr) ∧
    (∀ l v, lineChannel l ≠ ch → (setLine l v s).srAt ch = s.srAt ch)) ∧
  (∀ (s t : State) (i : Instr) (ch : Channel), exec i s = .next t → t.srAt ch ≠ s.srAt ch →
    (∃ c, i = .init c ∧ c.toNat = ch.val) ∨ (∃ c code, i = .wseg c code ∧ c.toNat = ch.val) ∨
    (∃ l, i = .cfgo l ∧ l.toNat / 3 = ch.val))

/-- `readLine` (R42): one `Sample` event with the level the oracle gives (how the oracle is held is log 5), no other effect; two samples of one line may differ;
the operations that sample check the direction first. -/
def Obligations.SampleHasNoSideEffect : Prop :=
  (∀ (s : State) (b : ButtonLine), ∃ v : Bit,
    v = s.nextSample b ∧ (readLine b s).trace = s.trace ++ [.sample (buttonId b) v] ∧
    (readLine b s).res = s.res ∧ (readLine b s).time = s.time ∧ SamplerFrame s (readLine b s)) ∧
  (∃ (s : State) (b : ButtonLine), s.nextSample b ≠ (readLine b s).nextSample b) ∧
  (∀ (s : State) (b : ButtonLine) (l : BitVec 8) (t : BitVec 16), l.toNat = 27 + b.val → s.dirAt (buttonId b) ≠ .input →
    exec (.pressed l) s = .next (refuse .lineNotInput (encode (.pressed l)) s) ∧
    exec (.awrel l t) s = .next (refuse .lineNotInput (encode (.awrel l t)) s))

/-! ### The Serial Display Driver (R80 to R84) -/

/-- `WSEG ch, code` on a channel whose data and clock lines are outputs: its 40 events, its `TIME`, the levels it leaves, and its
frame (R80; the placement of the delays is the spec's decision D10). -/
def Obligations.WsegSendsFortyEvents : Prop :=
  ∀ (s : State) (c : BitVec 8) (ch : Channel) (code : Code), c.toNat = ch.val →
    s.isOutput (dataLine ch) = true → s.isOutput (clockLine ch) = true →
    ∃ t, exec (.wseg c code) s = .next t ∧
      t.trace = s.trace ++ writeEvents s.cfg ch code ∧ (writeEvents s.cfg ch code).length = 40 ∧
      t.time = s.time + 16 * s.cfg.tClk ∧
      t.outAt (dataLine ch) = some (code.getLsbD 0) ∧ t.outAt (clockLine ch) = some false ∧
      t.outAt (resetLine ch) = s.outAt (resetLine ch) ∧ DisplayFrame ch s t

/-- `WSEG` entered with the clock low and the master reset released leaves exactly the code in the register, whatever it held,
known or not, and the lines idle (R84, derived from R80 and R40). -/
def Obligations.WsegLeavesCodeInRegister : Prop :=
  ∀ (s : State) (c : BitVec 8) (ch : Channel) (code : Code), c.toNat = ch.val →
    s.isOutput (dataLine ch) = true → s.isOutput (clockLine ch) = true →
    s.outAt (clockLine ch) = some false → s.outAt (resetLine ch) = some true →
    ∃ t, exec (.wseg c code) s = .next t ∧ t.srAt ch = codeStages code ∧
      t.outAt (dataLine ch) = some (code.getLsbD 0) ∧ t.outAt (clockLine ch) = some false ∧
      t.outAt (resetLine ch) = some true

/-- The intermediate contents of a `WSEG` entered with the clock low and the master reset released (R83, derived from R40;
decision D7): from the k-th rising edge until the next one the register holds the low bits of the old content above the top k
bits of the code. The content inside the operation is read by replaying a prefix of `TRACE` (`State.shownAfter`, log 16). -/
def Obligations.WsegShowsIntermediateContents : Prop :=
  ∀ (s : State) (c : BitVec 8) (ch : Channel) (old code : Code), c.toNat = ch.val →
    s.isOutput (dataLine ch) = true → s.isOutput (clockLine ch) = true →
    s.outAt (clockLine ch) = some false → s.outAt (resetLine ch) = some true →
    TraceInv s → s.srAt ch = codeStages old →
    ∃ t, exec (.wseg c code) s = .next t ∧
      ∀ k n : Nat, 1 ≤ k → k ≤ 8 → 5 * (k - 1) + 2 ≤ n → n ≤ 5 * k + 1 →
        t.shownAfter (s.trace.length + n) ch =
          codeStages (BitVec.ofNat 8 (old.toNat * 2 ^ k ||| code.toNat / 2 ^ (8 - k)))

/-- `INIT ch` on a channel whose three lines are outputs, from any levels and any content, X included: the register is cleared, the
lines idle, 43 events, and its frame (R81, R84; decisions D6 and D11). -/
def Obligations.InitClearsChannel : Prop :=
  ∀ (s : State) (c : BitVec 8) (ch : Channel), c.toNat = ch.val →
    s.isOutput (dataLine ch) = true → s.isOutput (clockLine ch) = true → s.isOutput (resetLine ch) = true →
    ∃ t, exec (.init c) s = .next t ∧ t.srAt ch = codeStages 0 ∧
      t.outAt (dataLine ch) = some false ∧ t.outAt (clockLine ch) = some false ∧
      t.outAt (resetLine ch) = some true ∧
      t.trace = s.trace ++ initEvents s.cfg ch ∧ (initEvents s.cfg ch).length = 43 ∧
      t.time = s.time + (s.cfg.tMr + 16 * s.cfg.tClk) ∧ DisplayFrame ch s t

/-- Every completed `WSEG` transmits bits 7, 6, ..., 0 of its code in that order, under every configuration, and every completed
`INIT` eight zeros: the order is fixed (R34, R82). -/
def Obligations.CodeIsSentMostSignificantBitFirst : Prop :=
  (∀ (s : State) (c : BitVec 8) (ch : Channel) (code : Code), c.toNat = ch.val →
    s.isOutput (dataLine ch) = true → s.isOutput (clockLine ch) = true →
    ∃ t, exec (.wseg c code) s = .next t ∧
      transmitted ch (s.newEvents t) =
        [code.getLsbD 7, code.getLsbD 6, code.getLsbD 5, code.getLsbD 4, code.getLsbD 3, code.getLsbD 2,
          code.getLsbD 1, code.getLsbD 0]) ∧
  (∀ (s : State) (c : BitVec 8) (ch : Channel), c.toNat = ch.val →
    s.isOutput (dataLine ch) = true → s.isOutput (clockLine ch) = true → s.isOutput (resetLine ch) = true →
    ∃ t, exec (.init c) s = .next t ∧ transmitted ch (s.newEvents t) = List.replicate 8 false)

/-- `WSEG` entered with the clock line high, which no sequence of operations reaches: the first bit is lost (R80 corner case f as
corrected by C12). -/
def Obligations.ClockHighAtEntryLosesFirstBit : Prop :=
  ∀ (s : State) (c : BitVec 8) (ch : Channel) (code : Code), c.toNat = ch.val →
    s.isOutput (dataLine ch) = true → s.isOutput (clockLine ch) = true →
    s.outAt (clockLine ch) = some true → s.outAt (resetLine ch) = some true →
    ∃ t, exec (.wseg c code) s = .next t ∧ t.lit ch 7 = s.lit ch 0 ∧
      ∀ k : Stage, k.val < 7 → t.lit ch k = some (code.getLsbD k.val)

/-- `WSEG` on a channel whose master-reset level is X (never initialised): a stage ends known, and then 0, exactly where the code
has a 0 bit, but for stage 7 after an uncertain first edge (R80 corner case e, R40, R167; vectors V8 and V9). -/
def Obligations.UninitialisedWriteStaysUnknown : Prop :=
  ∀ (s : State) (c : BitVec 8) (ch : Channel) (code : Code), c.toNat = ch.val →
    s.isOutput (dataLine ch) = true → s.isOutput (clockLine ch) = true → s.outAt (resetLine ch) = none →
    ∃ t, exec (.wseg c code) s = .next t ∧
      ∀ k : Stage, k.val < 7 ∧ s.outAt (clockLine ch) = none ∨ s.outAt (clockLine ch) = some false →
        t.lit ch k = if code.getLsbD k.val then none else some false

/-- The lit segments of a display whose register holds a code are the segments of its 1 bits, under the configured segment map
(R14, R71; decision D8). -/
def Obligations.LitSegmentsAreTheCodesOnes : Prop :=
  ∀ (s : State) (ch : Channel) (code : Code) (seg : Segment), s.srAt ch = codeStages code →
    (seg ∈ s.litSegments ch ↔ ∃ k : Stage, code.getLsbD k.val = true ∧ s.cfg.segMap[k.val] = seg)

/-- Once a channel is ready it stays ready, whatever command or host turn follows (R84 "once a channel has been initialised",
R170, R171). -/
def Obligations.ReadyChannelStaysReady : Prop :=
  ∀ (s t : State) (ch : Channel), ChannelReady s ch → step s = .next t → ChannelReady t ch

/-! ### Refusals (R19, R46, R146, R147) -/

/-- An operation whose operands are out of range or of the wrong class is refused with that reason, in every state, and only the
mark moves (R46, R63, R146, R147; decision D17). That the recorded word is the first refusal's, here the operation's encoding, is
the model's choice (log 4). -/
def Obligations.BadOperandsAreRefused : Prop :=
  ∀ (i : Instr) (s : State) (r : Reason), i.operandReason = some r →
    exec i s = .next { s with
      refused := s.refused.or (some r)
      refusedWord := if s.refused = none then some (encode i) else s.refusedWord }

/-- `WSEG` and `INIT` of a channel with a line that is not an output are refused with that reason, and only the mark moves; `WSEG`
does not ask for the master-reset line, `INIT` does (R146, R147, C11; decision D17). That the recorded word is the first refusal's
is the model's choice (log 4). `PRESSED` and `AWREL` are in `SampleHasNoSideEffect` and `PressedTakesTwoSamples`. -/
def Obligations.UnconfiguredLinesAreRefused : Prop :=
  ∀ (s : State) (c : BitVec 8) (ch : Channel) (code : Code), c.toNat = ch.val →
    ((s.dirAt (displayId (dataLine ch)) ≠ .output ∨ s.dirAt (displayId (clockLine ch)) ≠ .output) →
      exec (.wseg c code) s = .next { s with
        refused := s.refused.or (some .lineNotOutput)
        refusedWord := if s.refused = none then some (encode (.wseg c code)) else s.refusedWord }) ∧
    ((s.dirAt (displayId (dataLine ch)) ≠ .output ∨ s.dirAt (displayId (clockLine ch)) ≠ .output ∨
        s.dirAt (displayId (resetLine ch)) ≠ .output) →
      exec (.init c) s = .next { s with
        refused := s.refused.or (some .lineNotOutput)
        refusedWord := if s.refused = none then some (encode (.init c)) else s.refusedWord })

/-- The refusal mark and its word are sticky: no step clears or replaces them (R19, R147; the word, log 4). -/
def Obligations.RefusalMarkIsSticky : Prop :=
  ∀ (s t : State) (r : Reason), s.refused = some r → step s = .next t →
    t.refused = some r ∧ t.refusedWord = s.refusedWord

/-! ### The Input Sampler (R90 to R94) -/

/-- `PRESSED l`, whole (R90): its word; one sample and no delay when the line does not read asserted, otherwise a second sample
`T_DEBOUNCE` later that decides; its frame; its refusals. -/
def Obligations.PressedTakesTwoSamples : Prop :=
  (∀ l : BitVec 8, (encode (.pressed l)).toNat = 0x50000000 + l.toNat * 2 ^ 16) ∧
  (∀ (s : State) (l : BitVec 8) (b : ButtonLine), l.toNat = 27 + b.val → s.dirAt (buttonId b) = .input →
    let level := s.cfg.assertLevel[b.val]
    let s1 := s.nextSample b
    let s2 := (delay s.cfg.tDebounce (readLine b s)).nextSample b
    (s1 ≠ level → ∃ t, exec (.pressed l) s = .next t ∧ t.res = some false ∧ t.time = s.time ∧
      t.trace = s.trace ++ [.sample (buttonId b) s1] ∧ SamplerFrame s t) ∧
    (s1 = level → ∃ t, exec (.pressed l) s = .next t ∧ t.res = some (decide (s2 = level)) ∧
      t.time = s.time + s.cfg.tDebounce ∧
      t.trace = s.trace ++ [.sample (buttonId b) s1, .delay s.cfg.tDebounce, .sample (buttonId b) s2] ∧
      SamplerFrame s t)) ∧
  (∀ (s : State) (l : BitVec 8) (b : ButtonLine), l.toNat = 27 + b.val → s.dirAt (buttonId b) ≠ .input →
    exec (.pressed l) s = .next (refuse .lineNotInput (encode (.pressed l)) s)) ∧
  (∀ (s : State) (l : BitVec 8),
    (36 < l.toNat → exec (.pressed l) s = .next (refuse .indexOutOfRange (encode (.pressed l)) s)) ∧
    (l.toNat < 27 → exec (.pressed l) s = .next (refuse .lineClassMismatch (encode (.pressed l)) s))) ∧
  (∀ w : Word, opcField w = 5 → argField w ≠ 0 ∨ zaField w ≠ 0 → decode w = .error .reservedNonZero)

/-- `AWREL l, t` on an input line: some number `j` of asserted samples, at most `t`, each followed by a poll delay, then one
de-asserted sample unless `t` were taken; `RES` and everything else stand (R91; the loop's shape is decision D14). `j` is what the
environment says, under a script, free draws and `ENV(l, t)` alike: the line reads asserted at each of the first `j` polls, and
not at the next one unless the timeout has come (`State.waitSample`; how the environment is held is log 5). -/
def Obligations.AwrelPollsUntilReleaseOrTimeout : Prop :=
  ∀ (s : State) (l : BitVec 8) (t : BitVec 16) (b : ButtonLine), l.toNat = 27 + b.val → s.dirAt (buttonId b) = .input →
    ∃ u j, exec (.awrel l t) s = .next u ∧ j ≤ t.toNat ∧
      (∀ k, k < j → s.waitSample b k = s.cfg.assertLevel[b.val]) ∧
      (j < t.toNat → s.waitSample b j ≠ s.cfg.assertLevel[b.val]) ∧
      u.trace = s.trace ++
        (List.replicate j [.sample (buttonId b) s.cfg.assertLevel[b.val], .delay s.cfg.tPoll]).flatten ++
        (if j < t.toNat then [.sample (buttonId b) !s.cfg.assertLevel[b.val]] else []) ∧
      u.time = s.time + j * s.cfg.tPoll ∧ u.res = s.res ∧ SamplerFrame s u

/-- `AWREL` under a scripted environment (R18, R91; the script is log 5): a release after `j < t` asserted samples ends it at that
sample, and a line that stays asserted ends it after exactly `t` samples; the script is consumed sample by sample. -/
def Obligations.AwrelFollowsTheScript : Prop :=
  ∀ (s : State) (l : BitVec 8) (t : BitVec 16) (b : ButtonLine) (rest : List Bit), l.toNat = 27 + b.val →
    s.dirAt (buttonId b) = .input →
    (∀ j, j < t.toNat →
      s.oracle = .perSample (List.replicate j s.cfg.assertLevel[b.val] ++ (!s.cfg.assertLevel[b.val]) :: rest) →
      ∃ u, exec (.awrel l t) s = .next u ∧ u.oracle = .perSample rest ∧ u.time = s.time + j * s.cfg.tPoll ∧
        sampleCount (s.newEvents u) = j + 1) ∧
    (s.oracle = .perSample (List.replicate t.toNat s.cfg.assertLevel[b.val] ++ rest) →
      ∃ u, exec (.awrel l t) s = .next u ∧ u.oracle = .perSample rest ∧
        u.time = s.time + t.toNat * s.cfg.tPoll ∧ sampleCount (s.newEvents u) = t.toNat)

/-- `AWREL` always ends, whatever the line does: at most `t` samples and `t` polling steps (R93, derived from R91). -/
def Obligations.AwrelIsBounded : Prop :=
  ∀ (s : State) (l : BitVec 8) (t : BitVec 16),
    ∃ u, exec (.awrel l t) s = .next u ∧ sampleCount (s.newEvents u) ≤ t.toNat ∧
      u.time ≤ s.time + t.toNat * s.cfg.tPoll

/-- `PRESSED` under the deterministic `ENV(l, t)`: it returns 1 exactly when the line reads asserted at both instants, whatever it
does between them (R92, derived from R90; the scripted environment is log 5). -/
def Obligations.PressedLooksAtTwoInstants : Prop :=
  ∀ (s : State) (l : BitVec 8) (b : ButtonLine) (env : List EnvChange), l.toNat = 27 + b.val →
    s.dirAt (buttonId b) = .input → s.oracle = .timed env →
    ∃ t, exec (.pressed l) s = .next t ∧
      (t.res = some true ↔
        envLevel env (buttonId b) s.time = s.cfg.assertLevel[b.val] ∧
          envLevel env (buttonId b) (s.time + s.cfg.tDebounce) = s.cfg.assertLevel[b.val])

/-- Blind windows (R174, derived from R50): only `PRESSED` and `AWREL` sample, and only their own line. -/
def Obligations.OnlyTheSamplerSamples : Prop :=
  ∀ (i : Instr) (s t : State) (l : Line) (v : Bit), exec i s = .next t → .sample l v ∈ s.newEvents t →
    ∃ f : BitVec 8, f.toNat = l.val ∧ (i = .pressed f ∨ ∃ n, i = .awrel f n)

/-! ### The whole machine -/

/-- Every step keeps the line classes, X on undriven lines, and the idle levels of clock and master reset (R11, R12, R32, R80
corner case f, R170, R171). -/
def Obligations.StepKeepsLinesInv : Prop :=
  ∀ s t : State, LinesInv s → step s = .next t → LinesInv t

/-- Every step keeps the lines, the registers and the elapsed delay equal to the replay of `TRACE`: equal traces, equal block
(R16, R17). -/
def Obligations.StepKeepsTraceInv : Prop :=
  ∀ s t : State, TraceInv s → step s = .next t → TraceInv t

/-- A step only adds events, `TIME` grows by their delays, the parameters never change, a command moves `cp` by one and leaves the
host alone, and with no command waiting nothing of the block happens (R16, R17, R21, R23, R47). The model's: the list of
waiting commands (log 1), the step with none waiting (log 2), the host (log 12). -/
def Obligations.StepOnlyExtendsHistory : Prop :=
  ∀ s t : State, step s = .next t →
    ∃ es : List Event, t.trace = s.trace ++ es ∧ t.time = s.time + delaySum es ∧ t.cfg = s.cfg ∧
      (s.commands ≠ [] → t.cp = s.cp + 1 ∧ t.commands = s.commands.tail ∧ t.host = s.host) ∧
      (s.commands = [] → es = [] ∧ t.cp = s.cp ∧ t.dir = s.dir ∧ t.out = s.out ∧ t.sr = s.sr ∧ t.res = s.res)

/-- `RES` is written by `PRESSED` and by nothing else, and never becomes X again (R15; decision D13; the list of waiting commands
is log 1). -/
def Obligations.OnlyPressedWritesResult : Prop :=
  ∀ s t : State, step s = .next t → t.res ≠ s.res →
    t.res ≠ none ∧ ∃ w rest l, s.commands = w :: rest ∧ decode w = .ok (.pressed l)

/-- Directions change only from `Unconfigured`, and only by `CFGO` or `CFGI` of that line: there is no way back (R11, R100 corner
case c, R101 corner case b; decision D18; the list of waiting commands is log 1). -/
def Obligations.ConfiguredLinesStayConfigured : Prop :=
  ∀ (s t : State) (l : Line), LinesInv s → step s = .next t → t.dirAt l ≠ s.dirAt l →
    s.dirAt l = .unconfigured ∧
      ∃ w rest f, s.commands = w :: rest ∧ f.toNat = l.val ∧
        (decode w = .ok (.cfgo f) ∧ t.dirAt l = .output ∨ decode w = .ok (.cfgi f) ∧ t.dirAt l = .input)

/-- No operation reads `TRACE`, and none reads `TIME` but through an environment that is a function of it (R16, R17, R18): with
other values of them it does the same and adds the same. The two runs start at the same counter of free draws, so they draw the
same free samples (log 5): the statement says that the operation does not look, not that two runs of a device agree. -/
def Obligations.BookkeepingIsNeverRead : Prop :=
  ∀ (i : Instr) (s t : State) (trace : List Event), exec i s = .next t →
    exec i { s with trace := trace } = .next { t with trace := trace ++ s.newEvents t } ∧
    ∀ (script : List Bit) (time : Nat), s.oracle = .perSample script →
      exec i { s with trace := trace, time := time } =
        .next { t with trace := trace ++ s.newEvents t, time := time + delaySum (s.newEvents t) }

/-! ### The Game Engine (R110 to R119) -/

/-- `applyMove` (R113): rejected on a cell that is not empty; otherwise that cell becomes the player's and no other cell moves. -/
def Obligations.MoveTakesOnlyEmptyCell : Prop :=
  ∀ (board : Board) (i : Channel) (p : Player),
    (cellAt board i ≠ .empty → applyMove board i p = none) ∧
    (cellAt board i = .empty → ∃ next, applyMove board i p = some next ∧ cellAt next i = .taken p ∧
      ∀ j, j ≠ i → cellAt next j = cellAt board j)

/-- `evaluateWin` (R114, R119 a): the player of the first line, in the priority order, that is uniformly a player's; none when no
line is. The order of the two diagonals is decision D25. -/
def Obligations.WinIsFirstCompleteLine : Prop :=
  ∀ board : Board,
    let uniform (p : Player) (line : Channel × Channel × Channel) : Prop :=
      cellAt board line.1 = .taken p ∧ cellAt board line.2.1 = .taken p ∧ cellAt board line.2.2 = .taken p
    (evaluateWin board = none ↔ ∀ line ∈ winningLines, ∀ p, ¬ uniform p line) ∧
    (∀ p, evaluateWin board = some p ↔
      ∃ before line after, winningLines = before ++ line :: after ∧ uniform p line ∧
        ∀ other ∈ before, ∀ q, ¬ uniform q other) ∧
    winningLines = [(0, 1, 2), (3, 4, 5), (6, 7, 8), (0, 3, 6), (1, 4, 7), (2, 5, 8), (0, 4, 8), (2, 4, 6)]

/-- `evaluateDraw` (R115): true exactly when every cell is not `Empty`; it does not look for a winner. -/
def Obligations.DrawMeansBoardFull : Prop :=
  (∀ board : Board, evaluateDraw board = true ↔ ∀ i : Channel, cellAt board i ≠ .empty) ∧
  ∃ board : Board, evaluateDraw board = true ∧ evaluateWin board ≠ none

/-- `reset(session)` (R116), regardless of prior state, and the session at process start. -/
def Obligations.SessionResetRestoresStart : Prop :=
  ∀ session : Session, (∀ i, cellAt (resetSession session).board i = .empty) ∧
    (resetSession session).cur = .playerH ∧ (resetSession session).status = .inProgress ∧
    resetSession session = Session.start

/-- `glyph` and `other` (R118). -/
def Obligations.GlyphsAndOpponents : Prop :=
  (∀ cfg : Config, glyph cfg .empty = Config.blank ∧ glyph cfg (.taken .playerH) = cfg.glyphH ∧
    glyph cfg (.taken .playerO) = cfg.glyph0) ∧
  other .playerH = .playerO ∧ other .playerO = .playerH

/-- The status machine after an accepted move (R117): won when a line is complete, drawn when the board is full without one,
otherwise still in progress with the other player to move; win takes priority and the board stands. -/
def Obligations.StatusFollowsAcceptedMove : Prop :=
  ∀ session : Session, session.status = .inProgress →
    (afterMove session).board = session.board ∧
    (∀ p, (afterMove session).status = .won p ↔ evaluateWin session.board = some p) ∧
    ((afterMove session).status = .draw ↔ evaluateWin session.board = none ∧ evaluateDraw session.board = true) ∧
    ((afterMove session).status = .inProgress ↔ (afterMove session).cur = other session.cur) ∧
    ((afterMove session).status ≠ .inProgress ↔ (afterMove session).cur = session.cur)

/-! ### The whole system (R125 to R134, R168) -/

/-- The state after `BOOT` (R168, derived from R125 and R81): the host's first turn and its 46 commands, from power-on under any
configuration and environment (the host as turns between commands is log 12, the parameters in the state log 7, and that `cp`
counts from 0, so that it is 46 here, is log 11). -/
def Obligations.BootReachesLaunchState : Prop :=
  ∀ (cfg : Config) (oracle : Oracle), ∃ t, run 47 (State.systemReset cfg oracle) = .next t ∧
    (∀ l : DisplayLine, t.dirAt (displayId l) = .output) ∧ (∀ b : ButtonLine, t.dirAt (buttonId b) = .input) ∧
    (∀ ch : Channel, t.outAt (dataLine ch) = some false ∧ t.outAt (clockLine ch) = some false ∧
      t.outAt (resetLine ch) = some true ∧ t.srAt ch = codeStages 0) ∧
    t.res = none ∧ t.time = 9 * (cfg.tMr + 16 * cfg.tClk) ∧ t.refused = none ∧ t.cp = 46 ∧
    (∃ cfgs inits : List Event, t.trace = cfgs ++ inits ∧ cfgs.length = 37 ∧
      (∀ e ∈ cfgs, ∃ l d, e = .cfg l d) ∧ inits = channels.flatMap (initEvents cfg) ∧ inits.length = 387) ∧
    AtCycleTop t Session.start

/-- After `BOOT` the host issues only the commands of R133, with those operands only (derived from R125 to R132; log 12): at every
turn but the one of process start, and no turn leads back to process start. -/
def Obligations.HostIssuesOnlyOperatingCommands : Prop :=
  ∀ (cfg : Config) (pressed : Bool) (h : GameHost),
    (hostTurn cfg pressed h).host.phase ≠ .boot ∧
    (h.phase ≠ .boot → ∀ i ∈ (hostTurn cfg pressed h).issues, Operating cfg i)

/-- Under this host no command is ever refused (R133, derived from R125 to R132; log 12). Every step, from any state, keeps the
invariant that the commands on their way will all run and leave every line configured; so from power-on, under any configuration
and environment, no reachable state holds a refusal. -/
def Obligations.HostIsNeverRefused : Prop :=
  (∀ s t : State, CommandsInv s → step s = .next t → CommandsInv t) ∧
  (∀ (cfg : Config) (oracle : Oracle) (s : State), Reaches (State.systemReset cfg oracle) s → s.refused = none)

/-- Between outer cycles the displays show the game: the winner's glyph everywhere after a win, otherwise every cell's glyph
(R111, R112 d, R129, R130, R131, D26; log 12). Every step, from any state, keeps the invariant that the commands on their way will
make the displays show the host's session; so it holds at the top of every cycle reached from power-on. -/
def Obligations.DisplaysShowTheGame : Prop :=
  (∀ s t : State, DisplaysInv s → step s = .next t → DisplaysInv t) ∧
  (∀ (cfg : Config) (oracle : Oracle) (s : State) (session : Session),
    Reaches (State.systemReset cfg oracle) s → AtCycleTop s session →
    ∀ ch : Channel, s.srAt ch = codeStages (shownGlyph cfg session ch))

/-- Between outer cycles the status agrees with the board (R112 c, R117, R128): a win is a complete line of the player who moved,
a draw is a full board without one, and a game in progress has neither (log 12). Every step, from any state, keeps what the
session satisfies at each program point; so it holds at the top of every cycle reached from power-on. -/
def Obligations.StatusAgreesWithBoard : Prop :=
  (∀ s t : State, GameInv s → step s = .next t → GameInv t) ∧
  (∀ (cfg : Config) (oracle : Oracle) (s : State) (session : Session),
    Reaches (State.systemReset cfg oracle) s → AtCycleTop s session →
    match session.status with
    | .won p => evaluateWin session.board = some p ∧ session.cur = p
    | .draw => evaluateWin session.board = none ∧ evaluateDraw session.board = true ∧ session.cur = .playerH
    | .inProgress => evaluateWin session.board = none ∧ evaluateDraw session.board = false)

/-- Between outer cycles of a game in progress it is `PlayerH`'s move exactly after an even number of accepted moves (R119 d as
narrowed by C8; log 12). -/
def Obligations.PlayersAlternate : Prop :=
  ∀ (cfg : Config) (oracle : Oracle) (s : State) (session : Session),
    Reaches (State.systemReset cfg oracle) s → AtCycleTop s session → session.status = .inProgress →
    (session.cur = .playerH ↔ (session.board.toList.filter (· != .empty)).length % 2 = 0)

/-- A cell, once not empty, is never overwritten until a full reset: one step of a system with a host keeps every taken cell, or
leaves the start session behind (R112 a); the session itself moves only at a host turn (log 12). -/
def Obligations.TakenCellsAreKept : Prop :=
  ∀ (s t : State) (h : GameHost), s.host = some h → step s = .next t →
    ∃ h', t.host = some h' ∧ (s.commands ≠ [] → h' = h) ∧
      (h'.session = Session.start ∨
        ∀ (i : Channel) (p : Player), cellAt h.session.board i = .taken p → cellAt h'.session.board i = .taken p)

/-- The session moves only as stated (R112, R113, R116, R117, R127, R128, R131), and only at a host turn: by an accepted move on a
pressed button of the scan, by the evaluation right after it, or to the start session, at process start or by a confirmed press
of the reset button (log 12; the list of waiting commands, log 1). -/
def Obligations.SessionMovesOnlyAsStated : Prop :=
  ∀ (s t : State) (h : GameHost), s.host = some h → step s = .next t →
    ∃ h', t.host = some h' ∧
      (h'.session = h.session ∨ s.commands = [] ∧
        ((h'.session = Session.start ∧ (h.phase = .boot ∨ h.phase = .resetSampled ∧ s.pressedFlag = true)) ∨
          (h.phase = .moved ∧ h'.session = afterMove h.session) ∨
          ∃ i board, h.phase = .scanned i ∧ s.pressedFlag = true ∧
            applyMove h.session.board i h.session.cur = some board ∧ h'.session = { h.session with board := board }))

/-- One decision of the scan (R127, R128): an accepted press renders the cell with the mover's glyph and awaits the button's
release; a button that is not pressed, or whose cell is taken, lets the scan go on to the next button, and after the ninth to the
reset button. The sampling before the occupancy test is decision D22; the host's turn is log 12. -/
def Obligations.ScanStopsAtFirstAcceptedPress : Prop :=
  ∀ (cfg : Config) (session : Session) (i : Channel) (pressed : Bool),
    (pressed = true → cellAt session.board i = .empty →
      ∃ board, applyMove session.board i session.cur = some board ∧
        hostTurn cfg pressed { session := session, phase := .scanned i } =
          { host := { session := { session with board := board }, phase := .moved },
            issues := [.wseg (BitVec.ofNat 8 i.val) (glyph cfg (.taken session.cur)),
              .awrel (BitVec.ofNat 8 (27 + i.val)) cfg.tRelease] }) ∧
    (pressed = false ∨ cellAt session.board i ≠ .empty → ∀ j : Channel, j.val = i.val + 1 →
      hostTurn cfg pressed { session := session, phase := .scanned i } =
        { host := { session := session, phase := .scanned j }, issues := [.pressed (BitVec.ofNat 8 (27 + j.val))] }) ∧
    (pressed = false ∨ cellAt session.board i ≠ .empty → i.val = 8 →
      hostTurn cfg pressed { session := session, phase := .scanned i } =
        { host := { session := session, phase := .resetSampled }, issues := [.pressed 36] })

/-- The other decisions of the control loop (R126, R128 to R131; log 12). The top of a cycle scans the cell buttons of a game in
progress and otherwise samples the reset button alone. After a move: a win renders the winner's glyph everywhere, a draw flashes,
anything else lets the other player move (the status is in progress there, `GameInv`), and then the reset button is sampled
(decisions D22, D26). A confirmed reset starts the session again, blanks all displays (decision D23) and awaits the button's
release; an unconfirmed one issues nothing. -/
def Obligations.LoopTurnsFollowTheContract : Prop :=
  ∀ (cfg : Config) (session : Session) (pressed : Bool),
    let write (code : Channel → Code) : List Instr := channels.map fun ch => .wseg (BitVec.ofNat 8 ch.val) (code ch)
    let blankAll := write fun _ => Config.blank
    let restoreAll := write fun ch => glyph cfg (cellAt session.board ch)
    let flashOnce := blankAll ++ [.delay cfg.tFlash] ++ restoreAll ++ [.delay cfg.tFlash]
    let turn (phase : Phase) := hostTurn cfg pressed { session := session, phase := phase }
    let sampling (next : Session) (before : List Instr) : Turn :=
      { host := { session := next, phase := .resetSampled }, issues := before ++ [.pressed 36] }
    (session.status = .inProgress →
      turn .cycle = { host := { session := session, phase := .scanned 0 }, issues := [.pressed 27] }) ∧
    (session.status ≠ .inProgress → turn .cycle = sampling session []) ∧
    (∀ p, evaluateWin session.board = some p →
      turn .moved = sampling { session with status := .won p } (write fun _ => glyph cfg (.taken p))) ∧
    (evaluateWin session.board = none → evaluateDraw session.board = true →
      turn .moved = sampling { session with status := .draw } (List.replicate cfg.nFlash flashOnce).flatten) ∧
    (evaluateWin session.board = none → evaluateDraw session.board = false → session.status = .inProgress →
      turn .moved = sampling { session with cur := other session.cur } []) ∧
    (pressed = true → turn .resetSampled =
      { host := { session := Session.start, phase := .cycle }, issues := blankAll ++ [.awrel 36 cfg.tRelease] }) ∧
    (pressed = false → turn .resetSampled = { host := { session := session, phase := .cycle }, issues := [] })

/-- The draw animation run to its end on a launched system (R130, R178): `N_FLASH` times 20 commands, no sample, the nominal time,
and every display restored to its cell's glyph (D26; log 12; the list of waiting commands, log 1). -/
def Obligations.FlashRestoresEveryDisplay : Prop :=
  ∀ (s : State) (board : Board), Launched s → s.commands = (flashCommands s.cfg board).map encode →
    ∃ t, run (20 * s.cfg.nFlash) s = .next t ∧ t.commands = [] ∧ Launched t ∧ t.refused = s.refused ∧
      t.time = s.time + s.cfg.nFlash * (2 * (144 * s.cfg.tClk + s.cfg.tFlash.toNat)) ∧
      sampleCount (s.newEvents t) = 0 ∧
      (s.cfg.nFlash ≠ 0 → ∀ ch, t.srAt ch = codeStages (glyph s.cfg (cellAt board ch)))

/-- Every outer cycle ends (R134, R93): from the top of a cycle with every line configured, some number of steps leads to the top
of a cycle again, whatever the buttons do (log 12). -/
def Obligations.OuterCycleReturns : Prop :=
  ∀ (s : State) (session : Session), Launched s → AtCycleTop s session →
    ∃ (n : Nat) (t : State) (session' : Session), 1 ≤ n ∧ run n s = .next t ∧ Launched t ∧ AtCycleTop t session'
end

