-- ==== Sys2Proof/Laws/State.lean ====
section
/-! SUPPORT. One lemma per field per update of the state, true by `rfl`, so that no later proof unfolds a record update; and
the accessor lemmas (read after write) of the lines and registers. -/

namespace Sys2Proof.Machine

variable (s : State)

/-! ### setDir -/

@[simp] theorem setDir_dir (l : Line) (d : Dir) : (s.setDir l d).dir = s.dir.set l.val d := rfl
@[simp] theorem setDir_out (l : Line) (d : Dir) : (s.setDir l d).out = s.out := rfl
@[simp] theorem setDir_sr (l : Line) (d : Dir) : (s.setDir l d).sr = s.sr := rfl
@[simp] theorem setDir_res (l : Line) (d : Dir) : (s.setDir l d).res = s.res := rfl
@[simp] theorem setDir_time (l : Line) (d : Dir) : (s.setDir l d).time = s.time := rfl
@[simp] theorem setDir_trace (l : Line) (d : Dir) : (s.setDir l d).trace = s.trace := rfl
@[simp] theorem setDir_refused (l : Line) (d : Dir) : (s.setDir l d).refused = s.refused := rfl
@[simp] theorem setDir_refusedWord (l : Line) (d : Dir) : (s.setDir l d).refusedWord = s.refusedWord := rfl
@[simp] theorem setDir_cp (l : Line) (d : Dir) : (s.setDir l d).cp = s.cp := rfl
@[simp] theorem setDir_cfg (l : Line) (d : Dir) : (s.setDir l d).cfg = s.cfg := rfl
@[simp] theorem setDir_oracle (l : Line) (d : Dir) : (s.setDir l d).oracle = s.oracle := rfl
@[simp] theorem setDir_draws (l : Line) (d : Dir) : (s.setDir l d).draws = s.draws := rfl
@[simp] theorem setDir_commands (l : Line) (d : Dir) : (s.setDir l d).commands = s.commands := rfl
@[simp] theorem setDir_host (l : Line) (d : Dir) : (s.setDir l d).host = s.host := rfl

/-! ### setOut -/

@[simp] theorem setOut_dir (l : DisplayLine) (v : Level) : (s.setOut l v).dir = s.dir := rfl
@[simp] theorem setOut_out (l : DisplayLine) (v : Level) : (s.setOut l v).out = s.out.set l.val v := rfl
@[simp] theorem setOut_sr (l : DisplayLine) (v : Level) : (s.setOut l v).sr = s.sr := rfl
@[simp] theorem setOut_res (l : DisplayLine) (v : Level) : (s.setOut l v).res = s.res := rfl
@[simp] theorem setOut_time (l : DisplayLine) (v : Level) : (s.setOut l v).time = s.time := rfl
@[simp] theorem setOut_trace (l : DisplayLine) (v : Level) : (s.setOut l v).trace = s.trace := rfl
@[simp] theorem setOut_refused (l : DisplayLine) (v : Level) : (s.setOut l v).refused = s.refused := rfl
@[simp] theorem setOut_refusedWord (l : DisplayLine) (v : Level) : (s.setOut l v).refusedWord = s.refusedWord := rfl
@[simp] theorem setOut_cp (l : DisplayLine) (v : Level) : (s.setOut l v).cp = s.cp := rfl
@[simp] theorem setOut_cfg (l : DisplayLine) (v : Level) : (s.setOut l v).cfg = s.cfg := rfl
@[simp] theorem setOut_oracle (l : DisplayLine) (v : Level) : (s.setOut l v).oracle = s.oracle := rfl
@[simp] theorem setOut_draws (l : DisplayLine) (v : Level) : (s.setOut l v).draws = s.draws := rfl
@[simp] theorem setOut_commands (l : DisplayLine) (v : Level) : (s.setOut l v).commands = s.commands := rfl
@[simp] theorem setOut_host (l : DisplayLine) (v : Level) : (s.setOut l v).host = s.host := rfl

/-! ### setSr -/

@[simp] theorem setSr_dir (ch : Channel) (r : Stages) : (s.setSr ch r).dir = s.dir := rfl
@[simp] theorem setSr_out (ch : Channel) (r : Stages) : (s.setSr ch r).out = s.out := rfl
@[simp] theorem setSr_sr (ch : Channel) (r : Stages) : (s.setSr ch r).sr = s.sr.set ch.val r := rfl
@[simp] theorem setSr_res (ch : Channel) (r : Stages) : (s.setSr ch r).res = s.res := rfl
@[simp] theorem setSr_time (ch : Channel) (r : Stages) : (s.setSr ch r).time = s.time := rfl
@[simp] theorem setSr_trace (ch : Channel) (r : Stages) : (s.setSr ch r).trace = s.trace := rfl
@[simp] theorem setSr_refused (ch : Channel) (r : Stages) : (s.setSr ch r).refused = s.refused := rfl
@[simp] theorem setSr_refusedWord (ch : Channel) (r : Stages) : (s.setSr ch r).refusedWord = s.refusedWord := rfl
@[simp] theorem setSr_cp (ch : Channel) (r : Stages) : (s.setSr ch r).cp = s.cp := rfl
@[simp] theorem setSr_cfg (ch : Channel) (r : Stages) : (s.setSr ch r).cfg = s.cfg := rfl
@[simp] theorem setSr_oracle (ch : Channel) (r : Stages) : (s.setSr ch r).oracle = s.oracle := rfl
@[simp] theorem setSr_draws (ch : Channel) (r : Stages) : (s.setSr ch r).draws = s.draws := rfl
@[simp] theorem setSr_commands (ch : Channel) (r : Stages) : (s.setSr ch r).commands = s.commands := rfl
@[simp] theorem setSr_host (ch : Channel) (r : Stages) : (s.setSr ch r).host = s.host := rfl

/-! ### log -/

@[simp] theorem log_dir (e : Event) : (s.log e).dir = s.dir := rfl
@[simp] theorem log_out (e : Event) : (s.log e).out = s.out := rfl
@[simp] theorem log_sr (e : Event) : (s.log e).sr = s.sr := rfl
@[simp] theorem log_res (e : Event) : (s.log e).res = s.res := rfl
@[simp] theorem log_time (e : Event) : (s.log e).time = s.time := rfl
@[simp] theorem log_trace (e : Event) : (s.log e).trace = s.trace ++ [e] := rfl
@[simp] theorem log_refused (e : Event) : (s.log e).refused = s.refused := rfl
@[simp] theorem log_refusedWord (e : Event) : (s.log e).refusedWord = s.refusedWord := rfl
@[simp] theorem log_cp (e : Event) : (s.log e).cp = s.cp := rfl
@[simp] theorem log_cfg (e : Event) : (s.log e).cfg = s.cfg := rfl
@[simp] theorem log_oracle (e : Event) : (s.log e).oracle = s.oracle := rfl
@[simp] theorem log_draws (e : Event) : (s.log e).draws = s.draws := rfl
@[simp] theorem log_commands (e : Event) : (s.log e).commands = s.commands := rfl
@[simp] theorem log_host (e : Event) : (s.log e).host = s.host := rfl

/-! ### delay -/

@[simp] theorem delay_dir (n : Nat) : (delay n s).dir = s.dir := rfl
@[simp] theorem delay_out (n : Nat) : (delay n s).out = s.out := rfl
@[simp] theorem delay_sr (n : Nat) : (delay n s).sr = s.sr := rfl
@[simp] theorem delay_res (n : Nat) : (delay n s).res = s.res := rfl
@[simp] theorem delay_time (n : Nat) : (delay n s).time = s.time + n := rfl
@[simp] theorem delay_trace (n : Nat) : (delay n s).trace = s.trace ++ [.delay n] := rfl
@[simp] theorem delay_refused (n : Nat) : (delay n s).refused = s.refused := rfl
@[simp] theorem delay_refusedWord (n : Nat) : (delay n s).refusedWord = s.refusedWord := rfl
@[simp] theorem delay_cp (n : Nat) : (delay n s).cp = s.cp := rfl
@[simp] theorem delay_cfg (n : Nat) : (delay n s).cfg = s.cfg := rfl
@[simp] theorem delay_oracle (n : Nat) : (delay n s).oracle = s.oracle := rfl
@[simp] theorem delay_draws (n : Nat) : (delay n s).draws = s.draws := rfl
@[simp] theorem delay_commands (n : Nat) : (delay n s).commands = s.commands := rfl
@[simp] theorem delay_host (n : Nat) : (delay n s).host = s.host := rfl

/-! ### setRes -/

@[simp] theorem setRes_dir (v : Bit) : (setRes v s).dir = s.dir := rfl
@[simp] theorem setRes_out (v : Bit) : (setRes v s).out = s.out := rfl
@[simp] theorem setRes_sr (v : Bit) : (setRes v s).sr = s.sr := rfl
@[simp] theorem setRes_res (v : Bit) : (setRes v s).res = some v := rfl
@[simp] theorem setRes_time (v : Bit) : (setRes v s).time = s.time := rfl
@[simp] theorem setRes_trace (v : Bit) : (setRes v s).trace = s.trace := rfl
@[simp] theorem setRes_refused (v : Bit) : (setRes v s).refused = s.refused := rfl
@[simp] theorem setRes_refusedWord (v : Bit) : (setRes v s).refusedWord = s.refusedWord := rfl
@[simp] theorem setRes_cp (v : Bit) : (setRes v s).cp = s.cp := rfl
@[simp] theorem setRes_cfg (v : Bit) : (setRes v s).cfg = s.cfg := rfl
@[simp] theorem setRes_oracle (v : Bit) : (setRes v s).oracle = s.oracle := rfl
@[simp] theorem setRes_draws (v : Bit) : (setRes v s).draws = s.draws := rfl
@[simp] theorem setRes_commands (v : Bit) : (setRes v s).commands = s.commands := rfl
@[simp] theorem setRes_host (v : Bit) : (setRes v s).host = s.host := rfl

/-! ### issue -/

@[simp] theorem issue_dir (w : Word) : (s.issue w).dir = s.dir := rfl
@[simp] theorem issue_out (w : Word) : (s.issue w).out = s.out := rfl
@[simp] theorem issue_sr (w : Word) : (s.issue w).sr = s.sr := rfl
@[simp] theorem issue_res (w : Word) : (s.issue w).res = s.res := rfl
@[simp] theorem issue_time (w : Word) : (s.issue w).time = s.time := rfl
@[simp] theorem issue_trace (w : Word) : (s.issue w).trace = s.trace := rfl
@[simp] theorem issue_refused (w : Word) : (s.issue w).refused = s.refused := rfl
@[simp] theorem issue_refusedWord (w : Word) : (s.issue w).refusedWord = s.refusedWord := rfl
@[simp] theorem issue_cp (w : Word) : (s.issue w).cp = s.cp := rfl
@[simp] theorem issue_cfg (w : Word) : (s.issue w).cfg = s.cfg := rfl
@[simp] theorem issue_oracle (w : Word) : (s.issue w).oracle = s.oracle := rfl
@[simp] theorem issue_draws (w : Word) : (s.issue w).draws = s.draws := rfl
@[simp] theorem issue_commands (w : Word) : (s.issue w).commands = w :: s.commands := rfl
@[simp] theorem issue_host (w : Word) : (s.issue w).host = s.host := rfl

/-! ### sampleTaken and readLine: only the oracle's own fields move -/

@[simp] theorem sampleTaken_dir : s.sampleTaken.dir = s.dir := by
  unfold State.sampleTaken; split <;> rfl
@[simp] theorem sampleTaken_out : s.sampleTaken.out = s.out := by
  unfold State.sampleTaken; split <;> rfl
@[simp] theorem sampleTaken_sr : s.sampleTaken.sr = s.sr := by
  unfold State.sampleTaken; split <;> rfl
@[simp] theorem sampleTaken_res : s.sampleTaken.res = s.res := by
  unfold State.sampleTaken; split <;> rfl
@[simp] theorem sampleTaken_time : s.sampleTaken.time = s.time := by
  unfold State.sampleTaken; split <;> rfl
@[simp] theorem sampleTaken_trace : s.sampleTaken.trace = s.trace := by
  unfold State.sampleTaken; split <;> rfl
@[simp] theorem sampleTaken_refused : s.sampleTaken.refused = s.refused := by
  unfold State.sampleTaken; split <;> rfl
@[simp] theorem sampleTaken_refusedWord : s.sampleTaken.refusedWord = s.refusedWord := by
  unfold State.sampleTaken; split <;> rfl
@[simp] theorem sampleTaken_cp : s.sampleTaken.cp = s.cp := by
  unfold State.sampleTaken; split <;> rfl
@[simp] theorem sampleTaken_cfg : s.sampleTaken.cfg = s.cfg := by
  unfold State.sampleTaken; split <;> rfl
@[simp] theorem sampleTaken_commands : s.sampleTaken.commands = s.commands := by
  unfold State.sampleTaken; split <;> rfl
@[simp] theorem sampleTaken_host : s.sampleTaken.host = s.host := by
  unfold State.sampleTaken; split <;> rfl

@[simp] theorem readLine_dir (b : ButtonLine) : (readLine b s).dir = s.dir := by simp [readLine]
@[simp] theorem readLine_out (b : ButtonLine) : (readLine b s).out = s.out := by simp [readLine]
@[simp] theorem readLine_sr (b : ButtonLine) : (readLine b s).sr = s.sr := by simp [readLine]
@[simp] theorem readLine_res (b : ButtonLine) : (readLine b s).res = s.res := by simp [readLine]
@[simp] theorem readLine_time (b : ButtonLine) : (readLine b s).time = s.time := by simp [readLine]
@[simp] theorem readLine_trace (b : ButtonLine) :
    (readLine b s).trace = s.trace ++ [.sample (buttonId b) (s.nextSample b)] := by
  simp [readLine]
@[simp] theorem readLine_refused (b : ButtonLine) : (readLine b s).refused = s.refused := by simp [readLine]
@[simp] theorem readLine_refusedWord (b : ButtonLine) : (readLine b s).refusedWord = s.refusedWord := by simp [readLine]
@[simp] theorem readLine_cp (b : ButtonLine) : (readLine b s).cp = s.cp := by simp [readLine]
@[simp] theorem readLine_cfg (b : ButtonLine) : (readLine b s).cfg = s.cfg := by simp [readLine]
@[simp] theorem readLine_oracle (b : ButtonLine) : (readLine b s).oracle = s.sampleTaken.oracle := rfl
@[simp] theorem readLine_draws (b : ButtonLine) : (readLine b s).draws = s.sampleTaken.draws := rfl
@[simp] theorem readLine_commands (b : ButtonLine) : (readLine b s).commands = s.commands := by simp [readLine]
@[simp] theorem readLine_host (b : ButtonLine) : (readLine b s).host = s.host := by simp [readLine]

/-! ### refuse: only the sticky mark and its word move -/

@[simp] theorem refuse_dir (r : Reason) (w : Word) : (refuse r w s).dir = s.dir := by
  unfold refuse; split <;> rfl
@[simp] theorem refuse_out (r : Reason) (w : Word) : (refuse r w s).out = s.out := by
  unfold refuse; split <;> rfl
@[simp] theorem refuse_sr (r : Reason) (w : Word) : (refuse r w s).sr = s.sr := by
  unfold refuse; split <;> rfl
@[simp] theorem refuse_res (r : Reason) (w : Word) : (refuse r w s).res = s.res := by
  unfold refuse; split <;> rfl
@[simp] theorem refuse_time (r : Reason) (w : Word) : (refuse r w s).time = s.time := by
  unfold refuse; split <;> rfl
@[simp] theorem refuse_trace (r : Reason) (w : Word) : (refuse r w s).trace = s.trace := by
  unfold refuse; split <;> rfl
@[simp] theorem refuse_cp (r : Reason) (w : Word) : (refuse r w s).cp = s.cp := by
  unfold refuse; split <;> rfl
@[simp] theorem refuse_cfg (r : Reason) (w : Word) : (refuse r w s).cfg = s.cfg := by
  unfold refuse; split <;> rfl
@[simp] theorem refuse_oracle (r : Reason) (w : Word) : (refuse r w s).oracle = s.oracle := by
  unfold refuse; split <;> rfl
@[simp] theorem refuse_draws (r : Reason) (w : Word) : (refuse r w s).draws = s.draws := by
  unfold refuse; split <;> rfl
@[simp] theorem refuse_commands (r : Reason) (w : Word) : (refuse r w s).commands = s.commands := by
  unfold refuse; split <;> rfl
@[simp] theorem refuse_host (r : Reason) (w : Word) : (refuse r w s).host = s.host := by
  unfold refuse; split <;> rfl

/-! ### Accessors: reading after a write -/

@[simp] theorem dirAt_setDir (l m : Line) (d : Dir) :
    (s.setDir l d).dirAt m = if m = l then d else s.dirAt m := by
  simp only [State.dirAt, setDir_dir, Vector.getElem_set, Fin.ext_iff, eq_comm]

@[simp] theorem outAt_setOut (l m : DisplayLine) (v : Level) :
    (s.setOut l v).outAt m = if m = l then v else s.outAt m := by
  simp only [State.outAt, setOut_out, Vector.getElem_set, Fin.ext_iff, eq_comm]

@[simp] theorem srAt_setSr (ch c : Channel) (r : Stages) :
    (s.setSr ch r).srAt c = if c = ch then r else s.srAt c := by
  simp only [State.srAt, setSr_sr, Vector.getElem_set, Fin.ext_iff, eq_comm]

/-! ### Accessors: what does not touch a component leaves its reads -/

@[simp] theorem dirAt_setOut (l : DisplayLine) (v : Level) (m : Line) : (s.setOut l v).dirAt m = s.dirAt m := rfl
@[simp] theorem dirAt_setSr (ch : Channel) (r : Stages) (m : Line) : (s.setSr ch r).dirAt m = s.dirAt m := rfl
@[simp] theorem dirAt_log (e : Event) (m : Line) : (s.log e).dirAt m = s.dirAt m := rfl
@[simp] theorem dirAt_delay (n : Nat) (m : Line) : (delay n s).dirAt m = s.dirAt m := rfl
@[simp] theorem dirAt_setRes (v : Bit) (m : Line) : (setRes v s).dirAt m = s.dirAt m := rfl
@[simp] theorem dirAt_issue (w : Word) (m : Line) : (s.issue w).dirAt m = s.dirAt m := rfl
@[simp] theorem dirAt_readLine (b : ButtonLine) (m : Line) : (readLine b s).dirAt m = s.dirAt m := by simp [State.dirAt]
@[simp] theorem dirAt_refuse (r : Reason) (w : Word) (m : Line) : (refuse r w s).dirAt m = s.dirAt m := by
  simp [State.dirAt]

@[simp] theorem outAt_setDir (l : Line) (d : Dir) (m : DisplayLine) : (s.setDir l d).outAt m = s.outAt m := rfl
@[simp] theorem outAt_setSr (ch : Channel) (r : Stages) (m : DisplayLine) : (s.setSr ch r).outAt m = s.outAt m := rfl
@[simp] theorem outAt_log (e : Event) (m : DisplayLine) : (s.log e).outAt m = s.outAt m := rfl
@[simp] theorem outAt_delay (n : Nat) (m : DisplayLine) : (delay n s).outAt m = s.outAt m := rfl
@[simp] theorem outAt_setRes (v : Bit) (m : DisplayLine) : (setRes v s).outAt m = s.outAt m := rfl
@[simp] theorem outAt_issue (w : Word) (m : DisplayLine) : (s.issue w).outAt m = s.outAt m := rfl
@[simp] theorem outAt_readLine (b : ButtonLine) (m : DisplayLine) : (readLine b s).outAt m = s.outAt m := by simp [State.outAt]
@[simp] theorem outAt_refuse (r : Reason) (w : Word) (m : DisplayLine) : (refuse r w s).outAt m = s.outAt m := by
  simp [State.outAt]

@[simp] theorem srAt_setDir (l : Line) (d : Dir) (c : Channel) : (s.setDir l d).srAt c = s.srAt c := rfl
@[simp] theorem srAt_setOut (l : DisplayLine) (v : Level) (c : Channel) : (s.setOut l v).srAt c = s.srAt c := rfl
@[simp] theorem srAt_log (e : Event) (c : Channel) : (s.log e).srAt c = s.srAt c := rfl
@[simp] theorem srAt_delay (n : Nat) (c : Channel) : (delay n s).srAt c = s.srAt c := rfl
@[simp] theorem srAt_setRes (v : Bit) (c : Channel) : (setRes v s).srAt c = s.srAt c := rfl
@[simp] theorem srAt_issue (w : Word) (c : Channel) : (s.issue w).srAt c = s.srAt c := rfl
@[simp] theorem srAt_readLine (b : ButtonLine) (c : Channel) : (readLine b s).srAt c = s.srAt c := by simp [State.srAt]
@[simp] theorem srAt_refuse (r : Reason) (w : Word) (c : Channel) : (refuse r w s).srAt c = s.srAt c := by
  simp [State.srAt]

end Sys2Proof.Machine
end

