-- ==== Sys2Proof/Laws/Ops.lean ====
section
/-! SUPPORT. What each shared operation does, said once: line numbering, levels and register contents, the port's primitives,
refusing and settling, operand checks. Provers cite these and leave the operations folded. -/

namespace Sys2Proof.Machine

variable (s : State)

/-! ### The numbering of the lines (R31) -/

@[simp] theorem lineChannel_dataLine (ch : Channel) : lineChannel (dataLine ch) = ch := by
  simp only [lineChannel, dataLine, Fin.ext_iff]; omega

@[simp] theorem lineChannel_clockLine (ch : Channel) : lineChannel (clockLine ch) = ch := by
  simp only [lineChannel, clockLine, Fin.ext_iff]; omega

@[simp] theorem lineChannel_resetLine (ch : Channel) : lineChannel (resetLine ch) = ch := by
  simp only [lineChannel, resetLine, Fin.ext_iff]; omega

@[simp] theorem dataLine_ne_clockLine (c d : Channel) : dataLine c ≠ clockLine d := by
  simp only [dataLine, clockLine, ne_eq, Fin.ext_iff]; omega

@[simp] theorem dataLine_ne_resetLine (c d : Channel) : dataLine c ≠ resetLine d := by
  simp only [dataLine, resetLine, ne_eq, Fin.ext_iff]; omega

@[simp] theorem clockLine_ne_resetLine (c d : Channel) : clockLine c ≠ resetLine d := by
  simp only [clockLine, resetLine, ne_eq, Fin.ext_iff]; omega

@[simp] theorem clockLine_ne_dataLine (c d : Channel) : clockLine c ≠ dataLine d :=
  (dataLine_ne_clockLine d c).symm

@[simp] theorem resetLine_ne_dataLine (c d : Channel) : resetLine c ≠ dataLine d :=
  (dataLine_ne_resetLine d c).symm

@[simp] theorem resetLine_ne_clockLine (c d : Channel) : resetLine c ≠ clockLine d :=
  (clockLine_ne_resetLine d c).symm

@[simp] theorem dataLine_inj {c d : Channel} : dataLine c = dataLine d ↔ c = d := by
  simp only [dataLine, Fin.ext_iff]; omega

@[simp] theorem clockLine_inj {c d : Channel} : clockLine c = clockLine d ↔ c = d := by
  simp only [clockLine, Fin.ext_iff]; omega

@[simp] theorem resetLine_inj {c d : Channel} : resetLine c = resetLine d ↔ c = d := by
  simp only [resetLine, Fin.ext_iff]; omega

@[simp] theorem displayId_inj {l m : DisplayLine} : displayId l = displayId m ↔ l = m := by
  simp only [displayId, Fin.ext_iff]

@[simp] theorem buttonId_inj {a b : ButtonLine} : buttonId a = buttonId b ↔ a = b := by
  simp only [buttonId, Fin.ext_iff]; omega

@[simp] theorem displayId_ne_buttonId (l : DisplayLine) (b : ButtonLine) : displayId l ≠ buttonId b := by
  simp only [displayId, buttonId, ne_eq, Fin.ext_iff]; omega

@[simp] theorem buttonId_ne_displayId (b : ButtonLine) (l : DisplayLine) : buttonId b ≠ displayId l :=
  (displayId_ne_buttonId l b).symm

/-- Every display line is the data, clock or master-reset line of its channel. -/
theorem displayLine_cases (l : DisplayLine) :
    l = dataLine (lineChannel l) ∨ l = clockLine (lineChannel l) ∨ l = resetLine (lineChannel l) := by
  simp only [dataLine, clockLine, resetLine, lineChannel, Fin.ext_iff]; omega

/-- Every line is a display line or a button line. -/
theorem line_cases (l : Line) : (∃ d, l = displayId d) ∨ ∃ b, l = buttonId b := by
  by_cases h : l.val < 27
  · exact .inl ⟨⟨l.val, h⟩, rfl⟩
  · exact .inr ⟨⟨l.val - 27, by omega⟩, by simp only [buttonId, Fin.ext_iff]; omega⟩

/-! ### Levels and register contents (R35, R39, R40) -/

@[simp] theorem join_self (a : Level) : join a a = a := by simp [join]

theorem join_comm (a b : Level) : join a b = join b a := by
  unfold join; by_cases h : a = b <;> simp [h, eq_comm]

/-- `join` is known exactly where both sides agree on a known level (R35). -/
theorem join_eq_some {a b : Level} {v : Bit} : join a b = some v ↔ a = some v ∧ b = some v := by
  unfold join; split
  · subst_vars; simp
  · constructor
    · simp
    · rintro ⟨rfl, rfl⟩; contradiction

@[simp] theorem joinStages_self (r : Stages) : joinStages r r = r := by
  ext k hk; simp [joinStages]

@[simp] theorem getElem_clearedStages (k : Nat) (h : k < 8) : clearedStages[k] = some false := by
  simp [clearedStages]

@[simp] theorem getElem_joinStages (a b : Stages) (k : Nat) (h : k < 8) :
    (joinStages a b)[k] = join a[k] b[k] := by
  simp [joinStages]

theorem getElem_shiftIn (d : Level) (r : Stages) (k : Nat) (h : k < 8) :
    (shiftIn d r)[k] = if k = 0 then d else r[k - 1] := by
  simp [shiftIn]

@[simp] theorem getElem_codeStages (code : Code) (k : Nat) (h : k < 8) :
    (codeStages code)[k] = some (code.getLsbD k) := by
  simp [codeStages, BitVec.getLsbD_eq_getElem h]

/-- Shifting a 0 into the cleared register leaves it cleared (R81 corner case a). -/
@[simp] theorem shiftIn_false_cleared : shiftIn (some false) clearedStages = clearedStages := by
  ext k hk; simp [getElem_shiftIn]

/-- The cleared register is the register that holds the blank code (R7). -/
theorem codeStages_blank : codeStages Config.blank = clearedStages := by decide

/-! ### The port's primitives -/

theorem setLine_dataLine (ch : Channel) (v : Bit) :
    setLine (dataLine ch) v s = (s.setOut (dataLine ch) (some v)).log (.set (dataLine ch) v) := by
  simp [setLine]

theorem setLine_clockLine_low (ch : Channel) :
    setLine (clockLine ch) false s =
      (s.setOut (clockLine ch) (some false)).log (.set (clockLine ch) false) := by
  simp [setLine, clockEdge]

theorem setLine_clockLine_high (ch : Channel) :
    setLine (clockLine ch) true s =
      ((s.setOut (clockLine ch) (some true)).log (.set (clockLine ch) true)).setSr ch
        (clockedStages (s.outAt (clockLine ch)) (s.outAt (resetLine ch)) (s.outAt (dataLine ch))
          (s.srAt ch)) := by
  simp [setLine, clockEdge]

theorem setLine_resetLine_low (ch : Channel) :
    setLine (resetLine ch) false s =
      ((s.setOut (resetLine ch) (some false)).log (.set (resetLine ch) false)).setSr ch
        clearedStages := by
  simp [setLine, masterReset]

theorem setLine_resetLine_high (ch : Channel) :
    setLine (resetLine ch) true s =
      (s.setOut (resetLine ch) (some true)).log (.set (resetLine ch) true) := by
  simp [setLine, masterReset]

/-- `setLine` moves the level it sets, the register of the line's channel and `TRACE`, nothing else (R38). -/
theorem setLine_cases (l : DisplayLine) (v : Bit) :
    ∃ r, setLine l v s = ((s.setOut l (some v)).log (.set l v)).setSr (lineChannel l) r := by
  have same : ∀ t : State, t.setSr (lineChannel l) (t.srAt (lineChannel l)) = t := by
    intro t; simp [State.setSr, State.srAt]
  unfold setLine masterReset clockEdge
  repeat' split
  all_goals first | exact ⟨_, rfl⟩ | exact ⟨_, (same _).symm⟩

theorem configureAsOutput_configured (l : DisplayLine) (h : s.dirAt (displayId l) = .output) :
    configureAsOutput l s = s := by
  simp [configureAsOutput, h]

theorem configureAsOutput_new (l : DisplayLine) (h : s.dirAt (displayId l) ≠ .output) :
    configureAsOutput l s =
      (((s.setDir (displayId l) .output).setOut l none).setSr (lineChannel l) Stages.unknown).log
        (.cfg (displayId l) .output) := by
  simp [configureAsOutput, h]

theorem configureAsInput_configured (b : ButtonLine) (h : s.dirAt (buttonId b) = .input) :
    configureAsInput b s = s := by
  simp [configureAsInput, h]

theorem configureAsInput_new (b : ButtonLine) (h : s.dirAt (buttonId b) ≠ .input) :
    configureAsInput b s = (s.setDir (buttonId b) .input).log (.cfg (buttonId b) .input) := by
  simp [configureAsInput, h]

/-! ### Refusing and settling (R147) -/

theorem refuse_first (r : Reason) (w : Word) (h : s.refused = none) :
    refuse r w s = { s with refused := some r, refusedWord := some w } := by
  simp [refuse, h]

theorem refuse_again (r : Reason) (w : Word) (h : s.refused ≠ none) : refuse r w s = s := by
  unfold refuse; split <;> simp_all

@[simp] theorem settle_ok (i : Instr) (t : State) : settle i s (.ok t) = .next t := rfl

@[simp] theorem settle_error (i : Instr) (r : Reason) :
    settle i s (.error r) = .next (refuse r (encode i) s) := rfl

/-! ### Operands (checks 4 and 5 of R68) -/

theorem channelOperand_eq (ch : BitVec 8) :
    (∃ c : Channel, c.val = ch.toNat ∧ channelOperand ch = .ok c) ∧ channelReason ch = none ∨
      (∃ r, channelOperand ch = .error r ∧ channelReason ch = some r) := by
  unfold channelOperand channelReason
  by_cases h : ch.toNat < 9
  · left; exact ⟨⟨⟨ch.toNat, h⟩, rfl, by simp [h]⟩, by rw [if_pos (by omega)]⟩
  · right; exact ⟨.indexOutOfRange, by simp [h], by rw [if_neg (by omega)]⟩

theorem displayOperand_eq (l : BitVec 8) :
    (∃ d : DisplayLine, d.val = l.toNat ∧ displayOperand l = .ok d) ∧ displayLineReason l = none ∨
      (∃ r, displayOperand l = .error r ∧ displayLineReason l = some r) := by
  unfold displayOperand displayLineReason
  by_cases h : l.toNat < 27
  · left; exact ⟨⟨⟨l.toNat, h⟩, rfl, by simp [h]⟩, by
      rw [if_neg (by omega), if_neg (by omega)]⟩
  · by_cases h' : l.toNat < 37
    · right; exact ⟨.lineClassMismatch, by simp [h, h'], by
        rw [if_neg (by omega), if_pos (by omega)]⟩
    · right; exact ⟨.indexOutOfRange, by simp [h, h'], by rw [if_pos (by omega)]⟩

theorem buttonOperand_eq (l : BitVec 8) :
    (∃ b : ButtonLine, 27 + b.val = l.toNat ∧ buttonOperand l = .ok b) ∧ buttonLineReason l = none ∨
      (∃ r, buttonOperand l = .error r ∧ buttonLineReason l = some r) := by
  unfold buttonOperand buttonLineReason
  by_cases h : l.toNat < 27
  · right; exact ⟨.lineClassMismatch, by simp [h], by
      rw [if_neg (by omega), if_pos h]⟩
  · by_cases h' : l.toNat < 37
    · left; exact ⟨⟨⟨l.toNat - 27, by omega⟩, by simp; omega, by simp [h, h']⟩, by
        rw [if_neg (by omega), if_neg h]⟩
    · right; exact ⟨.indexOutOfRange, by simp [h, h'], by rw [if_pos (by omega)]⟩

theorem channelOperand_channelField (ch : Channel) : channelOperand (channelField ch) = .ok ch := by
  revert ch; decide

theorem displayOperand_lineField (l : DisplayLine) : displayOperand (lineField (displayId l)) = .ok l := by
  revert l; decide

theorem buttonOperand_lineField (b : ButtonLine) : buttonOperand (lineField (buttonId b)) = .ok b := by
  revert b; decide

end Sys2Proof.Machine
end

