-- ==== Sys2Proof/Laws/Step.lean ====
section
/-! SUPPORT. What an operation and a step can do, said once with their guards: later proofs take these cases and leave `exec`
and `step` folded. Also the one-bit transfer of a write, field by field. -/

namespace Sys2Proof.Machine

variable (s : State)

/-! ### Operands of a given number -/

theorem channelOperand_of_val {c : BitVec 8} {ch : Channel} (h : c.toNat = ch.val) :
    channelOperand c = .ok ch := by
  have hlt : c.toNat < 9 := by omega
  simp only [channelOperand, hlt, dif_pos]
  exact congrArg Except.ok (Fin.ext h)

theorem displayOperand_of_val {l : BitVec 8} {d : DisplayLine} (h : l.toNat = d.val) :
    displayOperand l = .ok d := by
  have hlt : l.toNat < 27 := by omega
  simp only [displayOperand, hlt, dif_pos]
  exact congrArg Except.ok (Fin.ext h)

theorem buttonOperand_of_val {l : BitVec 8} {b : ButtonLine} (h : l.toNat = 27 + b.val) :
    buttonOperand l = .ok b := by
  have h1 : ¬ l.toNat < 27 := by omega
  have h2 : l.toNat < 37 := by omega
  simp only [buttonOperand, h1, h2, if_false, dif_pos]
  exact congrArg Except.ok (Fin.ext (by simp only; omega))

/-! ### What an operation can do -/

/-- An operation answers a next state, and it is one of these: its refusal, or its effect with good operands and its lines
configured as check 6 of R68 asks. -/
theorem exec_cases (i : Instr) :
    ∃ t, exec i s = .next t ∧
      ((∃ r, t = refuse r (encode i) s) ∨
       (∃ l d, i = .cfgo l ∧ l.toNat = d.val ∧ t = configureAsOutput d s) ∨
       (∃ l b, i = .cfgi l ∧ l.toNat = 27 + b.val ∧ t = configureAsInput b s) ∨
       (∃ c ch, i = .init c ∧ c.toNat = ch.val ∧ s.isOutput (dataLine ch) = true ∧
          s.isOutput (clockLine ch) = true ∧ s.isOutput (resetLine ch) = true ∧ t = initChannel ch s) ∨
       (∃ c code ch, i = .wseg c code ∧ c.toNat = ch.val ∧ s.isOutput (dataLine ch) = true ∧
          s.isOutput (clockLine ch) = true ∧ t = writeSegment ch code s) ∨
       (∃ l b, i = .pressed l ∧ l.toNat = 27 + b.val ∧ s.isInput b = true ∧ t = isPressed b s) ∨
       (∃ l n b, i = .awrel l n ∧ l.toNat = 27 + b.val ∧ s.isInput b = true ∧ t = pollRelease b n.toNat s) ∨
       (∃ n, i = .delay n ∧ t = delay n.toNat s)) := by
  cases i with
  | cfgo l =>
    rcases displayOperand_eq l with ⟨⟨d, hd, h⟩, -⟩ | ⟨r, h, -⟩
    · exact ⟨configureAsOutput d s, by simp only [exec, execCfgo, h, settle_ok], .inr (.inl ⟨l, d, rfl, hd.symm, rfl⟩)⟩
    · exact ⟨refuse r (encode (.cfgo l)) s, by simp only [exec, execCfgo, h, settle_error], .inl ⟨r, rfl⟩⟩
  | cfgi l =>
    rcases buttonOperand_eq l with ⟨⟨b, hb, h⟩, -⟩ | ⟨r, h, -⟩
    · exact ⟨configureAsInput b s, by simp only [exec, execCfgi, h, settle_ok],
        .inr (.inr (.inl ⟨l, b, rfl, hb.symm, rfl⟩))⟩
    · exact ⟨refuse r (encode (.cfgi l)) s, by simp only [exec, execCfgi, h, settle_error], .inl ⟨r, rfl⟩⟩
  | init c =>
    rcases channelOperand_eq c with ⟨⟨ch, hc, h⟩, -⟩ | ⟨r, h, -⟩
    · by_cases ho : s.isOutput (dataLine ch) = true ∧ s.isOutput (clockLine ch) = true ∧ s.isOutput (resetLine ch) = true
      · exact ⟨initChannel ch s, by simp only [exec, execInit, h, if_pos ho, settle_ok],
          .inr (.inr (.inr (.inl ⟨c, ch, rfl, hc.symm, ho.1, ho.2.1, ho.2.2, rfl⟩)))⟩
      · exact ⟨refuse .lineNotOutput (encode (.init c)) s, by simp only [exec, execInit, h, if_neg ho, settle_error],
          .inl ⟨_, rfl⟩⟩
    · exact ⟨refuse r (encode (.init c)) s, by simp only [exec, execInit, h, settle_error], .inl ⟨r, rfl⟩⟩
  | wseg c code =>
    rcases channelOperand_eq c with ⟨⟨ch, hc, h⟩, -⟩ | ⟨r, h, -⟩
    · by_cases ho : s.isOutput (dataLine ch) = true ∧ s.isOutput (clockLine ch) = true
      · exact ⟨writeSegment ch code s, by simp only [exec, execWseg, h, if_pos ho, settle_ok],
          .inr (.inr (.inr (.inr (.inl ⟨c, code, ch, rfl, hc.symm, ho.1, ho.2, rfl⟩))))⟩
      · exact ⟨refuse .lineNotOutput (encode (.wseg c code)) s,
          by simp only [exec, execWseg, h, if_neg ho, settle_error], .inl ⟨_, rfl⟩⟩
    · exact ⟨refuse r (encode (.wseg c code)) s, by simp only [exec, execWseg, h, settle_error], .inl ⟨r, rfl⟩⟩
  | pressed l =>
    rcases buttonOperand_eq l with ⟨⟨b, hb, h⟩, -⟩ | ⟨r, h, -⟩
    · by_cases hi : s.isInput b = true
      · exact ⟨isPressed b s, by simp only [exec, execPressed, h, if_pos hi, settle_ok],
          .inr (.inr (.inr (.inr (.inr (.inl ⟨l, b, rfl, hb.symm, hi, rfl⟩)))))⟩
      · exact ⟨refuse .lineNotInput (encode (.pressed l)) s,
          by simp only [exec, execPressed, h, if_neg hi, settle_error], .inl ⟨_, rfl⟩⟩
    · exact ⟨refuse r (encode (.pressed l)) s, by simp only [exec, execPressed, h, settle_error], .inl ⟨r, rfl⟩⟩
  | awrel l n =>
    rcases buttonOperand_eq l with ⟨⟨b, hb, h⟩, -⟩ | ⟨r, h, -⟩
    · by_cases hi : s.isInput b = true
      · exact ⟨pollRelease b n.toNat s, by simp only [exec, execAwrel, h, if_pos hi, settle_ok],
          .inr (.inr (.inr (.inr (.inr (.inr (.inl ⟨l, n, b, rfl, hb.symm, hi, rfl⟩))))))⟩
      · exact ⟨refuse .lineNotInput (encode (.awrel l n)) s,
          by simp only [exec, execAwrel, h, if_neg hi, settle_error], .inl ⟨_, rfl⟩⟩
    · exact ⟨refuse r (encode (.awrel l n)) s, by simp only [exec, execAwrel, h, settle_error], .inl ⟨r, rfl⟩⟩
  | delay n =>
    exact ⟨delay n.toNat s, rfl, .inr (.inr (.inr (.inr (.inr (.inr (.inr ⟨n, rfl, rfl⟩))))))⟩

/-! ### What a step can do -/

/-- A step is the host's turn (or nothing) when no command waits; otherwise it takes the next command, `cp` advancing, and runs
it or refuses it. -/
theorem step_cases {s t : State} (h : step s = .next t) :
    (s.commands = [] ∧ t = betweenCommands s) ∨
    (∃ w rest, s.commands = w :: rest ∧
      ((∃ i, decode w = .ok i ∧ exec i { s with commands := rest, cp := s.cp + 1 } = .next t) ∨
       (∃ r, decode w = .error r ∧ t = refuse r w { s with commands := rest, cp := s.cp + 1 }))) := by
  unfold step takeCommand at h
  cases hc : s.commands with
  | nil =>
    rw [hc] at h
    exact .inl ⟨rfl, (Host.Outcome.next.inj h).symm⟩
  | cons w rest =>
    rw [hc] at h
    refine .inr ⟨w, rest, rfl, ?_⟩
    cases hd : decode w with
    | ok i => simp only [hd] at h; exact .inl ⟨i, rfl, h⟩
    | error r => simp only [hd] at h; exact .inr ⟨r, rfl, (Host.Outcome.next.inj h).symm⟩

/-! ### One bit of a write -/

variable (ch : Channel) (b : Bit)

/-- The one-bit transfer as one update (R80): the channel's data and clock levels, its register by the level its clock line had,
`TIME`, and five events. -/
theorem sendBit_eq : sendBit ch b s =
    { s with
      out := (((s.out.set (dataLine ch).val (some b)).set (clockLine ch).val (some true)).set
        (clockLine ch).val (some false))
      sr := s.sr.set ch.val
        (clockedStages (s.outAt (clockLine ch)) (s.outAt (resetLine ch)) (some b) (s.srAt ch))
      time := s.time + s.cfg.tClk + s.cfg.tClk
      trace := s.trace ++ [.set (dataLine ch) b] ++ [.set (clockLine ch) true] ++ [.delay s.cfg.tClk] ++
        [.set (clockLine ch) false] ++ [.delay s.cfg.tClk] } := by
  have h1 := setLine_clockLine_high
    (((s.setOut (dataLine ch) (some b)).log (.set (dataLine ch) b))) ch
  unfold sendBit
  rw [setLine_dataLine, h1, setLine_clockLine_low]
  simp [State.setOut, State.log, State.setSr, delay, State.outAt, State.srAt,
    dataLine, clockLine, resetLine]

@[simp] theorem sendBit_dir : (sendBit ch b s).dir = s.dir := by rw [sendBit_eq]
@[simp] theorem sendBit_res : (sendBit ch b s).res = s.res := by rw [sendBit_eq]
@[simp] theorem sendBit_refused : (sendBit ch b s).refused = s.refused := by rw [sendBit_eq]
@[simp] theorem sendBit_refusedWord : (sendBit ch b s).refusedWord = s.refusedWord := by rw [sendBit_eq]
@[simp] theorem sendBit_cp : (sendBit ch b s).cp = s.cp := by rw [sendBit_eq]
@[simp] theorem sendBit_cfg : (sendBit ch b s).cfg = s.cfg := by rw [sendBit_eq]
@[simp] theorem sendBit_oracle : (sendBit ch b s).oracle = s.oracle := by rw [sendBit_eq]
@[simp] theorem sendBit_draws : (sendBit ch b s).draws = s.draws := by rw [sendBit_eq]
@[simp] theorem sendBit_commands : (sendBit ch b s).commands = s.commands := by rw [sendBit_eq]
@[simp] theorem sendBit_host : (sendBit ch b s).host = s.host := by rw [sendBit_eq]

@[simp] theorem sendBit_time : (sendBit ch b s).time = s.time + 2 * s.cfg.tClk := by
  rw [sendBit_eq]; simp only; omega

@[simp] theorem sendBit_trace : (sendBit ch b s).trace = s.trace ++
    [.set (dataLine ch) b, .set (clockLine ch) true, .delay s.cfg.tClk, .set (clockLine ch) false,
      .delay s.cfg.tClk] := by
  rw [sendBit_eq]; simp

theorem sendBit_outAt (l : DisplayLine) : (sendBit ch b s).outAt l =
    if l = clockLine ch then some false else if l = dataLine ch then some b else s.outAt l := by
  rw [sendBit_eq]
  simp only [State.outAt, Vector.getElem_set, Fin.ext_iff, eq_comm]
  split <;> simp_all

theorem sendBit_srAt (c : Channel) : (sendBit ch b s).srAt c =
    if c = ch then clockedStages (s.outAt (clockLine ch)) (s.outAt (resetLine ch)) (some b) (s.srAt ch)
    else s.srAt c := by
  rw [sendBit_eq]
  simp only [State.srAt, Vector.getElem_set, Fin.ext_iff, eq_comm]

end Sys2Proof.Machine
end

