-- ==== Sys2Proof/Laws/Operations.lean ====
section
/-! SUPPORT. What the bodies of the operations can do, said once: the frame of a write, of an initialisation, of a press test
and of a release wait, the levels they leave, the directions configuring leaves, and what every operation keeps. -/

namespace Sys2Proof.Machine

variable (s : State) (ch : Channel)

/-! ### Writes and initialisations (R80, R81) -/

theorem DisplayFrame.refl : DisplayFrame ch s s := by
  constructor <;> intros <;> rfl

theorem DisplayFrame.trans {ch : Channel} {s t u : State} (h : DisplayFrame ch s t) (k : DisplayFrame ch t u) :
    DisplayFrame ch s u where
  dir := k.dir.trans h.dir
  out l hl := (k.out l hl).trans (h.out l hl)
  sr c hc := (k.sr c hc).trans (h.sr c hc)
  res := k.res.trans h.res
  refused := k.refused.trans h.refused
  refusedWord := k.refusedWord.trans h.refusedWord
  cp := k.cp.trans h.cp
  cfg := k.cfg.trans h.cfg
  oracle := k.oracle.trans h.oracle
  draws := k.draws.trans h.draws
  commands := k.commands.trans h.commands
  host := k.host.trans h.host

theorem sendBit_frame (b : Bit) : DisplayFrame ch s (sendBit ch b s) := by
  constructor <;> intros <;> simp [sendBit_outAt, sendBit_srAt]
  · rename_i l h
    have hc : l ≠ clockLine ch := by rintro rfl; simp at h
    have hd : l ≠ dataLine ch := by rintro rfl; simp at h
    simp [hc, hd]
  · simp_all

theorem sendBits_frame (code : Code) (n : Nat) : DisplayFrame ch s (sendBits ch code n s) := by
  induction n generalizing s with
  | zero => exact .refl s ch
  | succ n ih => exact (sendBit_frame s ch _).trans (ih _)

/-- The levels after at least one bit: clock low, data at the last bit sent, everything else as before. -/
theorem sendBits_outAt (code : Code) (n : Nat) (l : DisplayLine) :
    (sendBits ch code (n + 1) s).outAt l =
      if l = clockLine ch then some false else if l = dataLine ch then some (code.getLsbD 0) else s.outAt l := by
  induction n generalizing s with
  | zero => exact sendBit_outAt s ch _ l
  | succ n ih =>
    refine (ih _).trans ?_
    split
    · rfl
    · split
      · rfl
      · rename_i hc hd; simp [sendBit_outAt, hc, hd]

theorem writeSegment_frame (code : Code) : DisplayFrame ch s (writeSegment ch code s) := sendBits_frame s ch code 8

theorem writeSegment_outAt (code : Code) (l : DisplayLine) : (writeSegment ch code s).outAt l =
    if l = clockLine ch then some false else if l = dataLine ch then some (code.getLsbD 0) else s.outAt l :=
  sendBits_outAt s ch code 7 l

theorem initChannel_frame : DisplayFrame ch s (initChannel ch s) := by
  refine DisplayFrame.trans ?_ (writeSegment_frame _ ch Config.blank)
  constructor <;> intros <;> simp [setLine_resetLine_low, setLine_resetLine_high]
  · rename_i l h
    have : l ≠ resetLine ch := by rintro rfl; simp at h
    simp [this]
  · rename_i c h; simp [h]

theorem initChannel_outAt (l : DisplayLine) : (initChannel ch s).outAt l =
    if l = clockLine ch then some false else if l = dataLine ch then some false
    else if l = resetLine ch then some true else s.outAt l := by
  unfold initChannel
  rw [writeSegment_outAt]
  by_cases hc : l = clockLine ch
  · simp [hc]
  by_cases hd : l = dataLine ch
  · simp [hd, Config.blank]
  by_cases hr : l = resetLine ch
  · simp [hr, setLine_resetLine_low, setLine_resetLine_high]
  simp [hc, hd, hr, setLine_resetLine_low, setLine_resetLine_high]

/-! ### Configuring (R36, R37) -/

theorem configureAsOutput_dirAt (d : DisplayLine) (l : Line) :
    (configureAsOutput d s).dirAt l = if l = displayId d then .output else s.dirAt l := by
  unfold configureAsOutput; split
  · split
    · simp_all
    · rfl
  · simp

theorem configureAsOutput_outAt (d l : DisplayLine) : (configureAsOutput d s).outAt l =
    if s.dirAt (displayId d) ≠ .output ∧ l = d then none else s.outAt l := by
  unfold configureAsOutput; split <;> simp_all

theorem configureAsOutput_srAt (d : DisplayLine) (c : Channel) (h : c ≠ lineChannel d) :
    (configureAsOutput d s).srAt c = s.srAt c := by
  unfold configureAsOutput; split
  · rfl
  · simp [h]

theorem configureAsInput_dirAt (b : ButtonLine) (l : Line) :
    (configureAsInput b s).dirAt l = if l = buttonId b then .input else s.dirAt l := by
  unfold configureAsInput; split
  · split
    · simp_all
    · rfl
  · simp

theorem configureAsInput_outAt (b : ButtonLine) (l : DisplayLine) : (configureAsInput b s).outAt l = s.outAt l := by
  unfold configureAsInput; split <;> simp

/-! ### Sampling (R90, R91) -/

theorem SamplerFrame.refl : SamplerFrame s s := by constructor <;> rfl

theorem SamplerFrame.trans {s t u : State} (h : SamplerFrame s t) (k : SamplerFrame t u) : SamplerFrame s u where
  dir := k.dir.trans h.dir
  out := k.out.trans h.out
  sr := k.sr.trans h.sr
  refused := k.refused.trans h.refused
  refusedWord := k.refusedWord.trans h.refusedWord
  cp := k.cp.trans h.cp
  cfg := k.cfg.trans h.cfg
  commands := k.commands.trans h.commands
  host := k.host.trans h.host

theorem isPressed_frame (b : ButtonLine) : SamplerFrame s (isPressed b s) := by
  unfold isPressed resample; constructor <;> split <;> simp

theorem pollRelease_frame (b : ButtonLine) (n : Nat) : SamplerFrame s (pollRelease b n s) := by
  induction n generalizing s with
  | zero => exact .refl s
  | succ n ih =>
    unfold pollRelease; split
    · exact SamplerFrame.trans (by constructor <;> simp) (ih _)
    · constructor <;> simp

theorem pollRelease_res (b : ButtonLine) (n : Nat) : (pollRelease b n s).res = s.res := by
  induction n generalizing s with
  | zero => rfl
  | succ n ih =>
    unfold pollRelease; split
    · simp [ih]
    · simp

/-- The first sample of a wait is the oracle's next one. -/
theorem waitSample_zero (b : ButtonLine) : s.waitSample b 0 = s.nextSample b := by
  unfold State.waitSample State.nextSample
  cases s.oracle with
  | timed changes => simp
  | perSample script => cases script <;> simp

/-- After one asserted poll the remaining samples of a wait are the later ones of the whole wait. -/
theorem waitSample_succ (b : ButtonLine) (k : Nat) :
    (delay s.cfg.tPoll (readLine b s)).waitSample b k = s.waitSample b (k + 1) := by
  unfold State.waitSample
  cases h : s.oracle with
  | timed changes =>
    simp only [readLine, State.sampleTaken, h, delay, State.log]
    congr 1; ring
  | perSample script => cases script with
    | nil => simp [readLine, State.sampleTaken, h, delay, State.log]; congr 1; omega
    | cons v rest => simp [readLine, State.sampleTaken, h, delay, State.log]

/-! ### What every operation keeps -/

/-- No operation moves the parameters, the waiting commands, the command index or the host (R23, R24). -/
theorem exec_keeps {i : Instr} {s t : State} (h : exec i s = .next t) :
    t.cfg = s.cfg ∧ t.commands = s.commands ∧ t.cp = s.cp ∧ t.host = s.host := by
  obtain ⟨u, hu, hc⟩ := exec_cases s i
  obtain rfl : u = t := Host.Outcome.next.inj (hu.symm.trans h)
  rcases hc with ⟨r, rfl⟩ | ⟨_, d, -, -, rfl⟩ | ⟨_, b, -, -, rfl⟩ | ⟨_, ch, -, -, -, -, -, rfl⟩ |
    ⟨_, code, ch, -, -, -, -, rfl⟩ | ⟨_, b, -, -, -, rfl⟩ | ⟨_, n, b, -, -, -, rfl⟩ | ⟨n, -, rfl⟩
  · simp
  · unfold configureAsOutput; split <;> simp
  · unfold configureAsInput; split <;> simp
  · have f := initChannel_frame s ch; exact ⟨f.cfg, f.commands, f.cp, f.host⟩
  · have f := writeSegment_frame s ch code; exact ⟨f.cfg, f.commands, f.cp, f.host⟩
  · have f := isPressed_frame s b; exact ⟨f.cfg, f.commands, f.cp, f.host⟩
  · have f := pollRelease_frame s b n.toNat; exact ⟨f.cfg, f.commands, f.cp, f.host⟩
  · simp

/-- A ready channel and a launched system depend on directions and levels alone. -/
theorem ChannelReady.congr {s t : State} {ch : Channel} (hd : t.dir = s.dir) (ho : t.out = s.out)
    (h : ChannelReady s ch) : ChannelReady t ch where
  data := by simpa [State.isOutput, State.dirAt, hd] using h.data
  clock := by simpa [State.isOutput, State.dirAt, hd] using h.clock
  reset := by simpa [State.isOutput, State.dirAt, hd] using h.reset
  clockLow := by simpa [State.outAt, ho] using h.clockLow
  resetHigh := by simpa [State.outAt, ho] using h.resetHigh

theorem Launched.congr {s t : State} (hd : t.dir = s.dir) (ho : t.out = s.out) (h : Launched s) : Launched t where
  buttons b := by simpa [State.isInput, State.dirAt, hd] using h.buttons b
  channels ch := (h.channels ch).congr hd ho

end Sys2Proof.Machine
end

