-- ==== Sys2Proof/Laws/Engine.lean ====
section
/-! SUPPORT. The host's functions on boards, the fields of its turn between commands, and runs of waiting commands. -/

namespace Sys2Proof.Machine

/-! ### Boards (R110 to R115) -/

theorem cellAt_set (board : Board) (i j : Channel) (c : Cell) :
    cellAt (board.set i.val c) j = if j = i then c else cellAt board j := by
  simp only [cellAt, Vector.getElem_set, Fin.ext_iff, eq_comm]

/-- An accepted move found the cell empty and set that cell alone. -/
theorem applyMove_eq_some {board next : Board} {i : Channel} {p : Player} (h : applyMove board i p = some next) :
    cellAt board i = .empty ∧ next = board.set i.val (.taken p) := by
  unfold applyMove at h
  split at h <;> simp_all

theorem lineWinner_eq_some {board : Board} {line : Channel × Channel × Channel} {p : Player} :
    lineWinner board line = some p ↔
      cellAt board line.1 = .taken p ∧ cellAt board line.2.1 = .taken p ∧ cellAt board line.2.2 = .taken p := by
  obtain ⟨x, y, z⟩ := line
  simp only [lineWinner]
  generalize cellAt board x = a, cellAt board y = b, cellAt board z = c
  rcases a with _ | _ | _ <;> rcases b with _ | _ | _ <;> rcases c with _ | _ | _ <;> cases p <;> simp

theorem takenCount_set {board : Board} {i : Channel} (p : Player) (h : cellAt board i = .empty) :
    takenCount (board.set i.val (.taken p)) = takenCount board + 1 := by
  have hlt : i.val < board.toList.length := by simp
  have split : board.toList = board.toList.take i.val ++ Cell.empty :: board.toList.drop (i.val + 1) := by
    conv_lhs => rw [← List.take_append_drop i.val board.toList]
    rw [List.drop_eq_getElem_cons hlt]
    exact congrArg (fun c => _ ++ c :: _) h
  unfold takenCount
  rw [Vector.toList_set, List.set_eq_take_append_cons_drop, if_pos hlt]
  conv_rhs => rw [split]
  simp; omega

theorem statusAgrees_start : StatusAgrees Session.start := ⟨by decide, by decide, by decide⟩

/-! ### The host's turn, field by field -/

variable (s : State)

@[simp] theorem betweenCommands_dir : (betweenCommands s).dir = s.dir := by unfold betweenCommands; split <;> rfl
@[simp] theorem betweenCommands_out : (betweenCommands s).out = s.out := by unfold betweenCommands; split <;> rfl
@[simp] theorem betweenCommands_sr : (betweenCommands s).sr = s.sr := by unfold betweenCommands; split <;> rfl
@[simp] theorem betweenCommands_res : (betweenCommands s).res = s.res := by unfold betweenCommands; split <;> rfl
@[simp] theorem betweenCommands_time : (betweenCommands s).time = s.time := by unfold betweenCommands; split <;> rfl
@[simp] theorem betweenCommands_trace : (betweenCommands s).trace = s.trace := by unfold betweenCommands; split <;> rfl
@[simp] theorem betweenCommands_refused : (betweenCommands s).refused = s.refused := by unfold betweenCommands; split <;> rfl
@[simp] theorem betweenCommands_cp : (betweenCommands s).cp = s.cp := by unfold betweenCommands; split <;> rfl
@[simp] theorem betweenCommands_cfg : (betweenCommands s).cfg = s.cfg := by unfold betweenCommands; split <;> rfl

theorem betweenCommands_host {h : GameHost} (hh : s.host = some h) :
    (betweenCommands s).host = some (hostTurn s.cfg s.pressedFlag h).host := by
  simp [betweenCommands, hh]

theorem betweenCommands_commands {h : GameHost} (hh : s.host = some h) :
    (betweenCommands s).commands = (hostTurn s.cfg s.pressedFlag h).issues.map encode := by
  simp [betweenCommands, hh]

/-- A step that takes a command keeps the parameters and the host, and leaves the rest of the commands. -/
theorem step_command_keeps {s t : State} (h : step s = .next t) (hc : s.commands ≠ []) :
    t.cfg = s.cfg ∧ t.commands = s.commands.tail ∧ t.host = s.host := by
  rcases step_cases h with ⟨he, -⟩ | ⟨w, rest, hw, ⟨i, -, hi⟩ | ⟨r, -, rfl⟩⟩
  · exact absurd he hc
  · obtain ⟨hcfg, hcom, -, hhost⟩ := exec_keeps hi
    rw [hw]; exact ⟨hcfg, hcom, hhost⟩
  · rw [hw]; simp

/-! ### Runs -/

theorem run_succ {s t : State} (h : step s = .next t) (n : Nat) : run (n + 1) s = run n t := by
  simp only [run, h]

/-- Running the waiting commands to their end goes on from the state one step later. -/
theorem run_waiting {s t : State} (h : step s = .next t) (hc : s.commands ≠ []) :
    run s.commands.length s = run t.commands.length t := by
  obtain ⟨w, rest, hw⟩ := List.exists_cons_of_ne_nil hc
  rw [(step_command_keeps h hc).2.1, hw]
  exact run_succ h rest.length

end Sys2Proof.Machine
end

