-- ==== Sys2Proof/Laws/PerInstr.lean ====
section
/-! SUPPORT. The statements made per constructor of `Instr`: every encoded word is matched by its row of the opcode table (R62,
spec/opcode_table.json). -/

namespace Sys2Proof.Laws.EncodeMatchesTable

/-- `w AND mask = match` for the word of an operation (R62). -/
def Statement (i : Instr) : Prop := encode i &&& tableMask i = tableMatch i

/-- Masking a command word field by field. -/
theorem commandWord_and (opc : BitVec 4) (idx idxMask : BitVec 8) (arg argMask : BitVec 16) :
    commandWord opc idx arg &&& (0xF#4 ++ 0xF#4 ++ idxMask ++ argMask) =
      commandWord opc (idx &&& idxMask) (arg &&& argMask) := by
  have hF : ∀ x : BitVec 4, x &&& 0xF#4 = x := by decide
  calc (opc ++ 0#4 ++ idx ++ arg) &&& (0xF#4 ++ 0xF#4 ++ idxMask ++ argMask)
      = (opc &&& 0xF#4) ++ (0#4 &&& 0xF#4) ++ (idx &&& idxMask) ++ (arg &&& argMask) := by
        simp only [BitVec.and_append]
    _ = opc ++ 0#4 ++ (idx &&& idxMask) ++ (arg &&& argMask) := by rw [hF, hF]

/-- A command word with nothing in `IDX` and `ARG` is its opcode's number. -/
theorem commandWord_zero (opc : BitVec 4) : commandWord opc 0#8 0#16 = BitVec.ofNat 32 (opc.toNat * 2 ^ 28) := by
  revert opc; decide

theorem cfgo (l : BitVec 8) : Statement (.cfgo l) := by
  have h := commandWord_and 0x1 l 0 0 0xFFFF
  simpa [Statement, encode, tableMask, tableMatch, commandWord_zero] using h

theorem cfgi (l : BitVec 8) : Statement (.cfgi l) := by
  have h := commandWord_and 0x2 l 0 0 0xFFFF
  simpa [Statement, encode, tableMask, tableMatch, commandWord_zero] using h

theorem init (ch : BitVec 8) : Statement (.init ch) := by
  have h := commandWord_and 0x3 ch 0 0 0xFFFF
  simpa [Statement, encode, tableMask, tableMatch, commandWord_zero] using h

theorem wseg (ch : BitVec 8) (code : Code) : Statement (.wseg ch code) := by
  have h' : (0#8 ++ code : BitVec 16) &&& 65280#16 = 0#16 := by revert code; decide
  have h := commandWord_and 0x4 ch 0 (0#8 ++ code) 0xFF00
  simpa [Statement, encode, tableMask, tableMatch, commandWord_zero, h'] using h

theorem pressed (l : BitVec 8) : Statement (.pressed l) := by
  have h := commandWord_and 0x5 l 0 0 0xFFFF
  simpa [Statement, encode, tableMask, tableMatch, commandWord_zero] using h

theorem awrel (l : BitVec 8) (t : BitVec 16) : Statement (.awrel l t) := by
  have h := commandWord_and 0x6 l 0 t 0
  simpa [Statement, encode, tableMask, tableMatch, commandWord_zero] using h

theorem delay (n : BitVec 16) : Statement (.delay n) := by
  have h := commandWord_and 0x7 0 0xFF n 0
  simpa [Statement, encode, tableMask, tableMatch, commandWord_zero] using h

end Sys2Proof.Laws.EncodeMatchesTable
end

