-- ==== Sys2Proof/Tests/Slice0.lean ====
section
/-! SUPPORT. The model's own tests: well-formedness smoke tests, the words of the spec's encoding examples and of its refusal
vectors, vectors of 95_test_vectors.md, and one witness per statement that has hypotheses. -/

namespace Sys2Proof.Tests

open Sys2Proof Sys2Proof.Machine

/-! ### Helpers -/

/-- The default parameters with every button active high and pins numbered as the lines. -/
def cfgHigh : Config := { Config.default with assertLevel := Vector.replicate 10 true, pinMap := Vector.ofFn (·.val) }

/-- The state an outcome goes on to. -/
def after : Host.Outcome State Fault Refusal → State
  | .next t => t
  | .fault _ => State.reset
  | .refused _ => State.reset

/-- Reset, with the parameters above and a script of samples (`true` reads asserted). -/
def fresh (script : List Bit) : State := State.powerOn cfgHigh (.perSample script)

/-- Channel `ch` configured and initialised as after `CFGO D; CFGO C; CFGO R; INIT ch` from reset. -/
def initialised (ch : Channel) : State :=
  { fresh [] with
    dir := (((fresh []).dir.set (3 * ch.val) .output).set (3 * ch.val + 1) .output).set (3 * ch.val + 2) .output
    out := (((fresh []).out.set (3 * ch.val) (some false)).set (3 * ch.val + 1) (some false)).set (3 * ch.val + 2) (some true)
    sr := (fresh []).sr.set ch.val clearedStages
    time := 17
    trace := [.cfg (displayId (dataLine ch)) .output, .cfg (displayId (clockLine ch)) .output,
      .cfg (displayId (resetLine ch)) .output] ++ initEvents cfgHigh ch }

/-- Channel `ch` configured as output and nothing more: levels and register X. -/
def configured (ch : Channel) : State :=
  { fresh [] with
    dir := (((fresh []).dir.set (3 * ch.val) .output).set (3 * ch.val + 1) .output).set (3 * ch.val + 2) .output }

/-- Button `b` configured as input, with a script of samples. -/
def listening (b : ButtonLine) (script : List Bit) : State :=
  { fresh script with dir := (fresh []).dir.set (27 + b.val) .input }

/-- Every line configured, every channel ready, a host at the top of its cycle. -/
def launched : State :=
  { fresh [] with
    dir := Vector.ofFn fun l : Fin 37 => if l.val < 27 then .output else .input
    out := Vector.ofFn fun l : Fin 27 => some (l.val % 3 == 2)
    sr := Vector.replicate 9 clearedStages
    host := some { session := Session.start, phase := .cycle } }

/-- A board from cells 0..8: 0 empty, 1 `H`, 2 `O`. -/
def boardOf (cells : Vector Nat 9) : Board :=
  Vector.ofFn fun i : Fin 9 =>
    if cells[i.val] = 1 then .taken .playerH else if cells[i.val] = 2 then .taken .playerO else .empty

/-! ### Well-formedness: an ill-formed term for each check (R63) -/

theorem test_wf_channel : ¬ (Instr.init 9).WellFormed ∧ ¬ (Instr.wseg 255 0).WellFormed ∧ (Instr.wseg 8 0).WellFormed := by decide
theorem test_wf_display_range : ¬ (Instr.cfgo 37).WellFormed ∧ (Instr.cfgo 26).WellFormed := by decide
theorem test_wf_display_class : (Instr.cfgo 27).operandReason = some .lineClassMismatch := by decide
theorem test_wf_button_range : (Instr.awrel 40 5).operandReason = some .indexOutOfRange := by decide
theorem test_wf_button_class : (Instr.pressed 26).operandReason = some .lineClassMismatch ∧
    ¬ (Instr.cfgi 3).WellFormed ∧ (Instr.pressed 27).WellFormed := by decide

/-! ### Words written out from the encoding of R61 to R64 -/

theorem test_decode_cfgo : decode 0b0001_0000_00000010_0000000000000000 = .ok (.cfgo 2) := by decide
theorem test_decode_cfgi : decode 0b0010_0000_00011111_0000000000000000 = .ok (.cfgi 31) := by decide
theorem test_decode_init : decode 0b0011_0000_00001000_0000000000000000 = .ok (.init 8) := by decide
theorem test_decode_wseg : decode 0b0100_0000_00000100_00000000_00111111 = .ok (.wseg 4 0x3F) := by decide
theorem test_decode_pressed : decode 0b0101_0000_00100100_0000000000000000 = .ok (.pressed 36) := by decide
theorem test_decode_awrel : decode 0b0110_0000_00011111_0000001111101000 = .ok (.awrel 31 1000) := by decide
theorem test_decode_delay : decode 0b0111_0000_00000000_0000000111110100 = .ok (.delay 500) := by decide
theorem test_encode_examples : encode (.cfgo 26) = 0x101A0000 ∧ encode (.cfgi 36) = 0x20240000 ∧
    encode (.init 8) = 0x30080000 ∧ encode (.wseg 0 0x76) = 0x40000076 ∧ encode (.pressed 31) = 0x501F0000 ∧
    encode (.awrel 36 1000) = 0x602403E8 ∧ encode (.delay 500) = 0x700001F4 := by decide

/-- Vectors V51 to V66 (checks 1 to 5): the reason each word is refused for. -/
theorem test_admission_vectors :
    admitWord 0x00000000 = .error .badOpcode ∧ admitWord 0x101B0000 = .error .lineClassMismatch ∧
    admitWord 0x41000076 = .error .reservedNonZero ∧ admitWord 0x40090000 = .error .indexOutOfRange ∧
    admitWord 0x40000176 = .error .reservedNonZero ∧ admitWord 0x50050000 = .error .lineClassMismatch ∧
    admitWord 0x20250000 = .error .indexOutOfRange ∧ admitWord 0x70010005 = .error .reservedNonZero ∧
    admitWord 0x80000000 = .error .badOpcode ∧ admitWord 0x60280005 = .error .indexOutOfRange ∧
    admitWord 0x30090000 = .error .indexOutOfRange ∧ admitWord 0x30000001 = .error .reservedNonZero ∧
    admitWord 0x20030000 = .error .lineClassMismatch ∧ admitWord 0xFFFFFFFF = .error .badOpcode := by decide

/-- R69: the textual form, with its names, its comment, its decimal identifiers, and a code with each prefix (the prefixes are log 17). -/
theorem test_text : parseCommand cfgHigh "WSEG 0, 0b01110110".toList = some (.wseg 0 0x76) ∧
    parseCommand cfgHigh "AWREL B4, 1000 -- wait".toList = some (.awrel 31 1000) ∧
    parseCommand cfgHigh "WSEG 8, BLANK".toList = some (.wseg 8 0) ∧
    parseCommand cfgHigh "CFGO 26".toList = some (.cfgo 26) ∧ parseCommand cfgHigh "WSEG 0, 0x76".toList = some (.wseg 0 0x76) ∧ parseCommand cfgHigh "CFGI RSTB".toList = some (.cfgi 36) := by
  decide

/-! ### One step on a small state (95_test_vectors.md) -/

/-- V40. -/
theorem test_cfgo_new : (after (exec (.cfgo 10) (fresh []))).dirAt 10 = .output ∧
    (after (exec (.cfgo 10) (fresh []))).trace = [.cfg 10 .output] ∧
    (after (exec (.cfgo 10) (initialised 3))).srAt 3 = clearedStages := by decide

/-- V41: a line that is already an output. -/
theorem test_cfgo_again : (after (exec (.cfgo 1) (initialised 0))).outAt 1 = some false ∧
    (after (exec (.cfgo 1) (initialised 0))).trace.length = 46 := by decide

/-- V42. -/
theorem test_cfgi : (after (exec (.cfgi 36) (fresh []))).dirAt 36 = .input ∧
    (after (exec (.cfgi 36) (fresh []))).trace = [.cfg 36 .input] := by decide

/-- V43. -/
theorem test_delay : (after (exec (.delay 500) (fresh []))).time = 500 ∧
    (after (exec (.delay 500) (fresh []))).trace = [.delay 500] := by decide

/-- V7: `INIT` from unknown levels and an unknown register. -/
theorem test_init_from_unknown : (after (exec (.init 0) (configured 0))).srAt 0 = codeStages 0 ∧
    (after (exec (.init 0) (configured 0))).trace.length = 43 ∧ (after (exec (.init 0) (configured 0))).time = 17 := by decide

/-- V1: end of `WSEG 0, 0x76` on an initialised channel. -/
theorem test_wseg : (after (exec (.wseg 0 0x76) (initialised 0))).srAt 0 = codeStages 0x76 ∧
    (after (exec (.wseg 0 0x76) (initialised 0))).time = 17 + 16 ∧
    (after (exec (.wseg 0 0x76) (initialised 0))).outAt 0 = some false := by decide

/-- V8: `WSEG 1, 0x76` without `INIT` ends with `XXXX0XX0`. -/
theorem test_wseg_uninitialised : (after (exec (.wseg 1 0x76) (configured 1))).srAt 1 =
    #v[some false, none, none, some false, none, none, none, none] := by decide

/-- V21: a bounce. -/
theorem test_pressed_bounce : (after (exec (.pressed 31) (listening 4 [true, false]))).res = some false ∧
    (after (exec (.pressed 31) (listening 4 [true, false]))).trace =
      [.sample 31 true, .delay 20, .sample 31 false] := by decide

/-- V23 and V24: two instants under a deterministic environment. -/
theorem test_pressed_env :
    (after (exec (.pressed 31) { listening 4 [] with oracle := .timed [⟨31, 0, true⟩, ⟨31, 5, false⟩, ⟨31, 18, true⟩] })).res =
      some true ∧
    (after (exec (.pressed 31) { listening 4 [] with oracle := .timed [⟨31, 0, false⟩, ⟨31, 1, true⟩] })).res =
      some false := by decide

/-- V30 and V31. -/
theorem test_awrel : (after (exec (.awrel 31 3) (listening 4 [true, true, false]))).trace.length = 5 ∧
    (after (exec (.awrel 31 3) (listening 4 [true, true, true, true]))).time = 3 ∧
    (after (exec (.awrel 31 3) (listening 4 [true, true, true, true]))).oracle = .perSample [true] := by decide

/-- V25 and V27: a line already released, and a timeout of 0. -/
theorem test_awrel_at_once : (after (exec (.awrel 31 1000) (listening 4 [false]))).trace = [.sample 31 false] ∧
    (after (exec (.awrel 31 0) (listening 4 [true]))).trace = [] := by decide

/-- V34, V50 and V65: refused in the reset state, first reason kept. -/
theorem test_refusals : (after (exec (.pressed 31) (fresh []))).refused = some .lineNotInput ∧
    (after (exec (.wseg 0 0x76) (fresh []))).refusedWord = some 0x40000076 ∧
    (after (exec (.awrel 27 0) (after (exec (.wseg 0 0x76) (fresh []))))).refused = some .lineNotOutput := by decide

/-! ### The Game Engine (V70 to V80) -/

theorem test_win_order : evaluateWin (boardOf #v[1, 1, 1, 2, 2, 2, 0, 0, 0]) = some .playerH ∧
    evaluateWin (boardOf #v[2, 2, 2, 1, 1, 1, 0, 0, 0]) = some .playerO := by decide
theorem test_win_diagonals : evaluateWin (boardOf #v[2, 1, 1, 0, 2, 1, 0, 0, 2]) = some .playerO ∧
    evaluateWin (boardOf #v[1, 1, 2, 0, 2, 0, 2, 0, 1]) = some .playerO := by decide
theorem test_draw : evaluateWin (boardOf #v[1, 2, 1, 1, 2, 2, 2, 1, 1]) = none ∧
    evaluateDraw (boardOf #v[1, 2, 1, 1, 2, 2, 2, 1, 1]) = true := by decide
theorem test_move_rejected : applyMove (boardOf #v[0, 0, 0, 2, 0, 0, 0, 0, 0]) 3 .playerH = none := by decide

/-! ### The Control Loop (R125, R128, R130, P5) -/

/-- `BOOT`: 10 `CFGI`, 27 `CFGO`, 9 `INIT`. -/
theorem test_boot_sequence : bootCommands.length = 46 ∧ bootCommands.take 10 =
      [.cfgi 27, .cfgi 28, .cfgi 29, .cfgi 30, .cfgi 31, .cfgi 32, .cfgi 33, .cfgi 34, .cfgi 35, .cfgi 36] ∧
    (bootCommands.drop 10).take 4 = [.cfgo 0, .cfgo 1, .cfgo 2, .cfgo 3] ∧ bootCommands.getLast? = some (.init 8) := by decide

/-- An accepted press renders the cell and awaits release; P5, cycle 1. -/
theorem test_scan_accepts : hostTurn cfgHigh true { session := Session.start, phase := .scanned 0 } =
    { host := { session := { Session.start with board := boardOf #v[1, 0, 0, 0, 0, 0, 0, 0, 0] }, phase := .moved },
      issues := [.wseg 0 0x76, .awrel 27 1000] } := by decide

/-- A press on an occupied cell lets the scan go on to the next button. -/
theorem test_scan_rejects : (hostTurn cfgHigh true
      { session := { Session.start with board := boardOf #v[2, 0, 0, 0, 0, 0, 0, 0, 0] }, phase := .scanned 0 }).issues =
    [.pressed 28] := by decide

/-- The flash issues 60 commands (R130). -/
theorem test_flash : (flashCommands cfgHigh Session.start.board).length = 60 ∧
    (flashCommands cfgHigh Session.start.board)[9]? = some (.delay 500) := by decide

/-! ### Reset and the interface -/

theorem test_idle : (after (step State.reset)).cp = 0 ∧ (after (step State.reset)).trace = [] := by decide
theorem test_placed_word : (after (step (State.reset.withFetchWord 32 0x70000005))).time = 5 ∧
    decodeTableWord 32 0x70000005 = some (.delay 5) := by decide

/-! ### Witnesses: a concrete state and operands that meet the hypotheses of each statement, at boundary values -/

theorem witness_StepRunsDecodedCommand :
    ((fresh []).issue 0x7000FFFF).commands = 0x7000FFFF :: [] ∧ decode 0x7000FFFF = .ok (.delay 65535) := by decide

theorem witness_StepRefusesUndecodableWord :
    ((fresh []).issue 0x00000000).commands = 0 :: [] ∧ decode 0x00000000 = .error .badOpcode := by decide

theorem witness_NothingWaitingLeavesTheBlock : ((fresh []).commands = [] ∧ (fresh []).host = none) ∧
    launched.commands = [] ∧ launched.host = some { session := Session.start, phase := .cycle } := by decide

theorem witness_PlacedWordRunsNext : decodeTableWord 32 0x101A0000 = some (.cfgo 26) := by decide

theorem witness_CfgoMakesLineOutput : (0 : BitVec 8).toNat = (0 : DisplayLine).val ∧
    (initialised 0).dirAt (displayId 0) = .output ∧
    (26 : BitVec 8).toNat = (26 : DisplayLine).val ∧ (fresh []).dirAt (displayId 26) ≠ .output := by decide

theorem witness_CfgiMakesLineInput : (27 : BitVec 8).toNat = 27 + (0 : ButtonLine).val ∧
    (listening 0 []).dirAt (buttonId 0) = .input ∧
    (36 : BitVec 8).toNat = 27 + (9 : ButtonLine).val ∧ (fresh []).dirAt (buttonId 9) ≠ .input := by decide

theorem witness_DelayPassesTime : (opcField 0x70010005 = 7 ∧ idxField 0x70010005 ≠ 0) ∧
    (opcField 0x71000005 = 7 ∧ zaField 0x71000005 ≠ 0) := by decide

/-- The five cases of the clock's and the reset's levels, each in some state. -/
theorem witness_RisingClockEdgeShifts :
    ((initialised 8).outAt (clockLine 8) = some false ∧ (initialised 8).outAt (resetLine 8) = some true) ∧
    (((initialised 8).setOut (resetLine 8) (some false)).outAt (clockLine 8) = some false ∧
      ((initialised 8).setOut (resetLine 8) (some false)).outAt (resetLine 8) = some false) ∧
    (((initialised 8).setOut (resetLine 8) none).outAt (clockLine 8) = some false ∧
      ((initialised 8).setOut (resetLine 8) none).outAt (resetLine 8) = none) ∧
    ((initialised 8).setOut (clockLine 8) (some true)).outAt (clockLine 8) = some true ∧
    (configured 0).outAt (clockLine 0) = none := by decide

theorem witness_RegistersHoldOtherwise :
    ((initialised 8).setOut (clockLine 8) (some true)).outAt (clockLine 8) = some true ∧
    lineChannel (resetLine 7) ≠ (8 : Channel) ∧
    (after (exec (.wseg 8 0x01) (initialised 8))).srAt 8 ≠ (initialised 8).srAt 8 ∧
    (after (exec (.init 0) (configured 0))).srAt 0 ≠ (configured 0).srAt 0 ∧
    (after (exec (.cfgo 26) { initialised 8 with dir := (fresh []).dir })).srAt 8 ≠ (initialised 8).srAt 8 := by decide

theorem witness_SampleHasNoSideEffect : (36 : BitVec 8).toNat = 27 + (9 : ButtonLine).val ∧
    (fresh []).dirAt (buttonId 9) ≠ .input := by decide

/-- Channels 0 and 8 with their lines configured: the hypotheses of `WsegSendsFortyEvents`, `InitClearsChannel`,
`CodeIsSentMostSignificantBitFirst` and, with unknown levels, `UninitialisedWriteStaysUnknown`. -/
theorem witness_configuredChannel : ∀ ch ∈ [(0 : Channel), 8], (channelField ch).toNat = ch.val ∧
    (configured ch).isOutput (dataLine ch) = true ∧ (configured ch).isOutput (clockLine ch) = true ∧
    (configured ch).isOutput (resetLine ch) = true ∧ (configured ch).outAt (resetLine ch) = none ∧
    (configured ch).outAt (clockLine ch) = none ∧
    ((configured ch).setOut (clockLine ch) (some false)).outAt (clockLine ch) = some false := by decide

theorem initialised_ready : ∀ ch ∈ [(0 : Channel), 8], ChannelReady (initialised ch) ch := by
  intro ch h
  have hh : ∀ ch ∈ [(0 : Channel), 8], (initialised ch).isOutput (dataLine ch) = true ∧
      (initialised ch).isOutput (clockLine ch) = true ∧ (initialised ch).isOutput (resetLine ch) = true ∧
      (initialised ch).outAt (clockLine ch) = some false ∧ (initialised ch).outAt (resetLine ch) = some true := by decide
  exact ⟨(hh ch h).1, (hh ch h).2.1, (hh ch h).2.2.1, (hh ch h).2.2.2.1, (hh ch h).2.2.2.2⟩

theorem witness_WsegLeavesCodeInRegister : (8 : BitVec 8).toNat = (8 : Channel).val ∧
    (initialised 8).isOutput (dataLine 8) = true ∧ (initialised 8).isOutput (clockLine 8) = true ∧
    (initialised 8).outAt (clockLine 8) = some false ∧ (initialised 8).outAt (resetLine 8) = some true := by decide

theorem witness_WsegShowsIntermediateContents : (0 : BitVec 8).toNat = (0 : Channel).val ∧
    (initialised 0).isOutput (dataLine 0) = true ∧ (initialised 0).isOutput (clockLine 0) = true ∧
    (initialised 0).outAt (clockLine 0) = some false ∧ (initialised 0).outAt (resetLine 0) = some true ∧
    TraceInv (initialised 0) ∧ (initialised 0).srAt 0 = codeStages 0 :=
  ⟨by decide, by decide, by decide, by decide, by decide, by unfold TraceInv; decide, by decide⟩

theorem witness_ClockHighAtEntryLosesFirstBit :
    let s := (initialised 0).setOut (clockLine 0) (some true)
    (0 : BitVec 8).toNat = (0 : Channel).val ∧ s.isOutput (dataLine 0) = true ∧ s.isOutput (clockLine 0) = true ∧
      s.outAt (clockLine 0) = some true ∧ s.outAt (resetLine 0) = some true := by decide

theorem witness_LitSegmentsAreTheCodesOnes : (initialised 8).srAt 8 = codeStages 0 := by decide

theorem witness_ReadyChannelStaysReady : ChannelReady (initialised 8) 8 ∧
    step (initialised 8) = .next (initialised 8) :=
  ⟨initialised_ready 8 (by decide), rfl⟩

theorem witness_BadOperandsAreRefused : (Instr.wseg 9 0).operandReason = some .indexOutOfRange ∧
    (Instr.init 255).operandReason = some .indexOutOfRange ∧ (Instr.cfgo 27).operandReason = some .lineClassMismatch ∧
    (Instr.cfgo 37).operandReason = some .indexOutOfRange ∧ (Instr.cfgi 26).operandReason = some .lineClassMismatch ∧
    (Instr.pressed 37).operandReason = some .indexOutOfRange ∧ (Instr.awrel 0 0).operandReason = some .lineClassMismatch := by
  decide

theorem witness_UnconfiguredLinesAreRefused : (8 : BitVec 8).toNat = (8 : Channel).val ∧
    (fresh []).dirAt (displayId (dataLine 8)) ≠ .output ∧
    ((configured 8).setDir (displayId (resetLine 8)) .unconfigured).dirAt (displayId (resetLine 8)) ≠ .output := by decide

theorem witness_RefusalMarkIsSticky :
    (refuse .badOpcode 0 (fresh [])).refused = some .badOpcode ∧
    step (refuse .badOpcode 0 (fresh [])) = .next (refuse .badOpcode 0 (fresh [])) :=
  ⟨by decide, rfl⟩

/-- Both first samples, an unconfigured line, both operand refusals, and both reserved fields of `PRESSED`. -/
theorem witness_PressedTakesTwoSamples :
    ((36 : BitVec 8).toNat = 27 + (9 : ButtonLine).val ∧ (listening 9 [true]).dirAt (buttonId 9) = .input ∧
      (listening 9 [true]).nextSample 9 = (listening 9 [true]).cfg.assertLevel[9]) ∧
    ((27 : BitVec 8).toNat = 27 + (0 : ButtonLine).val ∧ (listening 0 [false]).dirAt (buttonId 0) = .input ∧
      (listening 0 [false]).nextSample 0 ≠ (listening 0 [false]).cfg.assertLevel[0]) ∧
    (fresh []).dirAt (buttonId 0) ≠ .input ∧ 36 < (37 : BitVec 8).toNat ∧ (26 : BitVec 8).toNat < 27 ∧
    (opcField 0x501B0001 = 5 ∧ argField 0x501B0001 ≠ 0) ∧ (opcField 0x511B0000 = 5 ∧ zaField 0x511B0000 ≠ 0) := by decide

theorem witness_AwrelPollsUntilReleaseOrTimeout : (27 : BitVec 8).toNat = 27 + (0 : ButtonLine).val ∧
    (listening 0 []).dirAt (buttonId 0) = .input := by decide

/-- Released after no asserted sample, and a line that stays asserted. -/
theorem witness_AwrelFollowsTheScript : (36 : BitVec 8).toNat = 27 + (9 : ButtonLine).val ∧
    (listening 9 [false]).dirAt (buttonId 9) = .input ∧ 0 < (1 : BitVec 16).toNat ∧
    (listening 9 [false]).oracle =
      .perSample (List.replicate 0 (listening 9 [false]).cfg.assertLevel[9] ++ (!(listening 9 [false]).cfg.assertLevel[9]) :: []) ∧
    (listening 9 [true, true]).oracle =
      .perSample (List.replicate (2 : BitVec 16).toNat (listening 9 [true, true]).cfg.assertLevel[9] ++ []) := by decide

theorem witness_PressedLooksAtTwoInstants : (36 : BitVec 8).toNat = 27 + (9 : ButtonLine).val ∧
    ({ listening 9 [] with oracle := .timed [⟨36, 0, true⟩] } : State).dirAt (buttonId 9) = .input ∧
    ({ listening 9 [] with oracle := .timed [⟨36, 0, true⟩] } : State).oracle = .timed [⟨36, 0, true⟩] := by decide

theorem witness_OnlyTheSamplerSamples :
    exec (.awrel 36 1) (listening 9 [true]) = .next (after (exec (.awrel 36 1) (listening 9 [true]))) ∧
    .sample 36 true ∈ (listening 9 [true]).newEvents (after (exec (.awrel 36 1) (listening 9 [true]))) :=
  ⟨rfl, by decide⟩

theorem fresh_linesInv : LinesInv (fresh []) :=
  ⟨by decide, by decide, by decide, by decide, by decide⟩

theorem witness_StepKeepsLinesInv : LinesInv (fresh []) ∧ step (fresh []) = .next (fresh []) := ⟨fresh_linesInv, rfl⟩

theorem witness_StepKeepsTraceInv : TraceInv (initialised 0) ∧ step (initialised 0) = .next (initialised 0) :=
  ⟨by unfold TraceInv; decide, rfl⟩

theorem witness_StepOnlyExtendsHistory :
    step ((fresh []).issue 0x70000005) = .next (after (step ((fresh []).issue 0x70000005))) ∧
    ((fresh []).issue 0x70000005).commands ≠ [] ∧ step (fresh []) = .next (fresh []) ∧ (fresh []).commands = [] :=
  ⟨rfl, by decide, rfl, by decide⟩

theorem witness_OnlyPressedWritesResult :
    step ((listening 4 [false]).issue 0x501F0000) = .next (after (step ((listening 4 [false]).issue 0x501F0000))) ∧
    (after (step ((listening 4 [false]).issue 0x501F0000))).res ≠ ((listening 4 [false]).issue 0x501F0000).res :=
  ⟨rfl, by decide⟩

theorem witness_ConfiguredLinesStayConfigured : LinesInv ((fresh []).issue 0x20240000) ∧
    step ((fresh []).issue 0x20240000) = .next (after (step ((fresh []).issue 0x20240000))) ∧
    (after (step ((fresh []).issue 0x20240000))).dirAt 36 ≠ ((fresh []).issue 0x20240000).dirAt 36 :=
  ⟨⟨by decide, by decide, by decide, by decide, by decide⟩, rfl, by decide⟩

theorem witness_BookkeepingIsNeverRead : (listening 0 [true, true]).oracle = .perSample [true, true] ∧
    exec (.pressed 27) (listening 0 [true, true]) = .next (after (exec (.pressed 27) (listening 0 [true, true]))) :=
  ⟨by decide, rfl⟩

/-- The waits of a script that runs out, and of a timed environment. -/
theorem test_waitSample : (listening 9 [true, false]).waitSample 9 1 = false ∧
    ({ listening 9 [] with oracle := .timed [⟨36, 0, true⟩, ⟨36, 2, false⟩] } : State).waitSample 9 1 = true ∧
    ({ listening 9 [] with oracle := .timed [⟨36, 0, true⟩, ⟨36, 2, false⟩] } : State).waitSample 9 2 = false := by decide

theorem witness_MoveTakesOnlyEmptyCell : cellAt (boardOf #v[0, 0, 0, 0, 0, 0, 0, 0, 2]) 8 ≠ .empty ∧
    cellAt (boardOf #v[0, 0, 0, 0, 0, 0, 0, 0, 2]) 0 = .empty := by decide

theorem witness_StatusFollowsAcceptedMove : Session.start.status = .inProgress := by decide

theorem witness_HostIssuesOnlyOperatingCommands : Phase.scanned 8 ≠ .boot ∧
    Instr.pressed 36 ∈ (hostTurn cfgHigh false { session := Session.start, phase := .scanned 8 }).issues := by decide

theorem witness_HostIsNeverRefused : Reaches (State.systemReset cfgHigh (.perSample [])) (State.systemReset cfgHigh (.perSample [])) :=
  .start

theorem reaches_run : ∀ (n : Nat) {s t u : State}, Reaches s t → run n t = .next u → Reaches s u
  | 0, _, _, _, h, e => by cases e; exact h
  | n + 1, s, t, u, h, e => by
    rw [run] at e
    cases hs : step t with
    | next v => rw [hs] at e; exact reaches_run n (.next h hs) e
    | fault r => rw [hs] at e; cases e
    | refused r => rw [hs] at e; cases e

/-- The state after `BOOT` is reachable and stands at the top of a cycle of a game in progress: the hypotheses of
`DisplaysShowTheGame`, `StatusAgreesWithBoard` and `PlayersAlternate`. -/
theorem witness_cycleTop : ∃ s, Reaches (State.systemReset cfgHigh (.perSample [])) s ∧ AtCycleTop s Session.start ∧
    Session.start.status = .inProgress := by
  refine ⟨after (run 47 (State.systemReset cfgHigh (.perSample []))), reaches_run 47 .start rfl, ⟨?_, ?_⟩, rfl⟩
  · decide +kernel
  · decide +kernel

/-- A game played from power-on: before each move the buttons below it read released, then its button reads asserted twice and
released, and the reset button released. -/
def played (cfg : Config) (moves : List Nat) (n : Nat) : Host.Outcome State Fault Refusal :=
  run n (State.systemReset cfg (.perSample (moves.flatMap fun i => List.replicate i false ++ [true, true, false, false])))

/-- The state of an outcome stands at the top of a cycle of a game with this status. -/
def topWith (status : Status) : Host.Outcome State Fault Refusal → Bool
  | .next t => t.commands.isEmpty && (t.host.map fun h => (h.phase, h.session.status)) == some (.cycle, status)
  | .fault _ => false
  | .refused _ => false

theorem atCycleTop_of_topWith {status : Status} {o : Host.Outcome State Fault Refusal} (h : topWith status o = true) :
    ∃ t session, o = .next t ∧ AtCycleTop t session ∧ session.status = status := by
  cases o with
  | next t =>
    simp only [topWith, Bool.and_eq_true, List.isEmpty_iff, beq_iff_eq, Option.map_eq_some_iff, Prod.mk.injEq] at h
    obtain ⟨hc, ⟨session, phase⟩, hh, rfl, hs⟩ := h
    exact ⟨t, session, rfl, ⟨hc, hh⟩, hs⟩
  | fault r => cases h
  | refused r => cases h

/-- A won game is reached at the top of a cycle: the `Won` arms of `DisplaysShowTheGame` and `StatusAgreesWithBoard`. -/
theorem witness_wonCycleTop : ∃ cfg oracle s session, Reaches (State.systemReset cfg oracle) s ∧ AtCycleTop s session ∧
    session.status = .won .playerH := by
  have h : topWith (.won .playerH) (played cfgHigh [0, 3, 1, 4, 2] 116) = true := by decide +kernel
  obtain ⟨t, session, ht, hp⟩ := atCycleTop_of_topWith h
  exact ⟨_, _, t, session, reaches_run _ .start ht, hp⟩

/-- A drawn game is reached at the top of a cycle (without flashes, which only lengthen the run): the `Draw` arms. -/
theorem witness_drawnCycleTop : ∃ cfg oracle s session, Reaches (State.systemReset cfg oracle) s ∧ AtCycleTop s session ∧
    session.status = .draw := by
  have h : topWith .draw (played { cfgHigh with nFlash := 0 } [0, 1, 2, 4, 3, 5, 7, 6, 8] 191) = true := by decide +kernel
  obtain ⟨t, session, ht, hp⟩ := atCycleTop_of_topWith h
  exact ⟨_, _, t, session, reaches_run _ .start ht, hp⟩

theorem witness_TakenCellsAreKept : launched.host = some { session := Session.start, phase := .cycle } ∧
    step launched = .next (betweenCommands launched) := ⟨by decide, rfl⟩

/-- Both an accepted press, and the scan going on at its first and at its last button. -/
theorem witness_ScanStopsAtFirstAcceptedPress : cellAt Session.start.board 0 = .empty ∧
    cellAt (boardOf #v[1, 0, 0, 0, 0, 0, 0, 0, 2]) 8 ≠ .empty ∧ (1 : Channel).val = (0 : Channel).val + 1 ∧
    (8 : Channel).val = 8 := by decide

/-- Each premise of `LoopTurnsFollowTheContract`: both kinds of status, a win, a draw, and neither. -/
theorem witness_LoopTurnsFollowTheContract : Session.start.status = .inProgress ∧
    ({ Session.start with status := .draw } : Session).status ≠ .inProgress ∧
    evaluateWin (boardOf #v[1, 1, 1, 2, 2, 0, 0, 0, 0]) = some .playerH ∧
    (evaluateWin (boardOf #v[1, 2, 1, 1, 2, 2, 2, 1, 1]) = none ∧ evaluateDraw (boardOf #v[1, 2, 1, 1, 2, 2, 2, 1, 1]) = true) ∧
    (evaluateWin (boardOf #v[1, 0, 0, 0, 0, 0, 0, 0, 0]) = none ∧
      evaluateDraw (boardOf #v[1, 0, 0, 0, 0, 0, 0, 0, 0]) = false) := by decide

theorem witness_SessionMovesOnlyAsStated : launched.host = some { session := Session.start, phase := .cycle } ∧
    step launched = .next (betweenCommands launched) := ⟨by decide, rfl⟩

theorem launched_launched : Launched launched := by
  have h : ∀ ch : Channel, launched.isOutput (dataLine ch) = true ∧ launched.isOutput (clockLine ch) = true ∧
      launched.isOutput (resetLine ch) = true ∧ launched.outAt (clockLine ch) = some false ∧
      launched.outAt (resetLine ch) = some true := by decide
  exact ⟨by decide, fun ch => ⟨(h ch).1, (h ch).2.1, (h ch).2.2.1, (h ch).2.2.2.1, (h ch).2.2.2.2⟩⟩

/-- The launched system with a session and the registers that show it. -/
def showing (session : Session) : State :=
  { launched with
    host := some { session := session, phase := .cycle }
    sr := Vector.ofFn fun ch => codeStages (shownGlyph cfgHigh session ch) }

/-- A game in progress, a won game and a drawn game, each at the top of a cycle. -/
def sessions : List Session :=
  [Session.start, { board := boardOf #v[1, 1, 1, 2, 2, 0, 0, 0, 0], cur := .playerH, status := .won .playerH },
    { board := boardOf #v[1, 2, 1, 1, 2, 2, 2, 1, 1], cur := .playerH, status := .draw }]

theorem sessions_agree : ∀ session ∈ sessions, StatusAgrees session := by
  simp only [sessions, List.forall_mem_cons]
  exact ⟨⟨by decide, by decide, by decide⟩, ⟨by decide, by decide⟩, ⟨by decide, by decide, by decide⟩, by simp⟩

/-- `GameInv`, `CommandsInv` and `DisplaysInv` hold in states with every kind of status, and these take a step. -/
theorem witness_hostInvariants : ∀ session ∈ sessions, GameInv (showing session) ∧ CommandsInv (showing session) ∧
    DisplaysInv (showing session) ∧ step (showing session) = .next (betweenCommands (showing session)) := by
  intro session h
  have hl : Launched (showing session) :=
    ⟨launched_launched.buttons, fun ch => ⟨(launched_launched.channels ch).data, (launched_launched.channels ch).clock,
      (launched_launched.channels ch).reset, (launched_launched.channels ch).clockLow,
      (launched_launched.channels ch).resetHigh⟩⟩
  exact ⟨⟨_, rfl, sessions_agree session h⟩, ⟨_, _, rfl, rfl, rfl, fun _ => hl⟩,
    ⟨_, _, rfl, sessions_agree session h, rfl, rfl, fun _ => ⟨hl, fun ch => by simp [showing, launched, fresh, State.powerOn, State.srAt]⟩⟩, rfl⟩

theorem witness_FlashRestoresEveryDisplay :
    let s := { launched with commands := (flashCommands launched.cfg Session.start.board).map encode }
    Launched s ∧ s.commands = (flashCommands s.cfg Session.start.board).map encode ∧ s.cfg.nFlash ≠ 0 :=
  ⟨⟨launched_launched.buttons, fun ch => ⟨(launched_launched.channels ch).data, (launched_launched.channels ch).clock,
    (launched_launched.channels ch).reset,
    (launched_launched.channels ch).clockLow, (launched_launched.channels ch).resetHigh⟩⟩, rfl, by decide⟩

theorem witness_OuterCycleReturns : Launched launched ∧ AtCycleTop launched Session.start :=
  ⟨launched_launched, by decide, by decide⟩

end Sys2Proof.Tests
end

/-! SUPPORT. The events a write and an initialisation append to `TRACE` (R80, R81) and the bits they transmit (R82), in every
state; with them, that a code is sent bit 7 first (R34). -/

namespace Sys2Proof.Machine

variable (s : State) (ch : Channel)

/-! ### Operations with good operands and configured lines -/

theorem exec_wseg_of_outputs {c : BitVec 8} {ch : Channel} (code : Code) (h : c.toNat = ch.val)
    (hd : s.isOutput (dataLine ch) = true) (hc : s.isOutput (clockLine ch) = true) :
    exec (.wseg c code) s = .next (writeSegment ch code s) := by
  simp [exec, execWseg, channelOperand_of_val h, hd, hc]

theorem exec_init_of_outputs {c : BitVec 8} {ch : Channel} (h : c.toNat = ch.val)
    (hd : s.isOutput (dataLine ch) = true) (hc : s.isOutput (clockLine ch) = true)
    (hr : s.isOutput (resetLine ch) = true) :
    exec (.init c) s = .next (initChannel ch s) := by
  simp [exec, execInit, channelOperand_of_val h, hd, hc, hr]

/-! ### The events of a write and of an initialisation -/

/-- The five events of the transfer of one bit (R80). -/
def bitEvents (cfg : Config) (ch : Channel) (b : Bit) : List Event :=
  [.set (dataLine ch) b, .set (clockLine ch) true, .delay cfg.tClk, .set (clockLine ch) false, .delay cfg.tClk]

/-- Bits `n - 1`, ..., 0 of a code, in the order in which they are sent (R34). -/
def sentBits (code : Code) (n : Nat) : List Bit := (List.range n).reverse.map code.getLsbD

theorem sentBits_succ (code : Code) (n : Nat) : sentBits code (n + 1) = code.getLsbD n :: sentBits code n := by
  simp [sentBits, List.range_succ]

theorem writeEvents_eq_flatMap (cfg : Config) (code : Code) :
    writeEvents cfg ch code = (sentBits code 8).flatMap (bitEvents cfg ch) := rfl

theorem sendBits_trace (code : Code) (n : Nat) :
    (sendBits ch code n s).trace = s.trace ++ (sentBits code n).flatMap (bitEvents s.cfg ch) := by
  induction n generalizing s with
  | zero => simp [sendBits, sentBits]
  | succ n ih => simp [sendBits, ih, sentBits_succ, bitEvents]

theorem writeSegment_trace (code : Code) :
    (writeSegment ch code s).trace = s.trace ++ writeEvents s.cfg ch code := sendBits_trace s ch code 8

theorem initChannel_trace : (initChannel ch s).trace = s.trace ++ initEvents s.cfg ch := by
  simp [initChannel, writeSegment_trace, setLine_resetLine_low, setLine_resetLine_high, initEvents]

theorem newEvents_of_trace {s t : State} {events : List Event} (h : t.trace = s.trace ++ events) :
    s.newEvents t = events := by
  rw [State.newEvents, h, List.drop_left]

/-! ### The bits they transmit -/

/-- One bit's events transmit that bit; the delay at their end keeps them apart from whatever follows. -/
theorem transmitted_bitEvents_append (cfg : Config) (b : Bit) (rest : List Event) :
    transmitted ch (bitEvents cfg ch b ++ rest) = b :: transmitted ch rest := by
  simp [bitEvents, transmitted]

theorem transmitted_flatMap_bitEvents (cfg : Config) (bits : List Bit) :
    transmitted ch (bits.flatMap (bitEvents cfg ch)) = bits := by
  induction bits with
  | nil => rfl
  | cons b bits ih => rw [List.flatMap_cons, transmitted_bitEvents_append, ih]

theorem transmitted_writeEvents (cfg : Config) (code : Code) :
    transmitted ch (writeEvents cfg ch code) = sentBits code 8 := by
  rw [writeEvents_eq_flatMap, transmitted_flatMap_bitEvents]

/-- The master-reset pulse of an `INIT` transmits nothing. -/
theorem transmitted_initEvents (cfg : Config) :
    transmitted ch (initEvents cfg ch) = sentBits Config.blank 8 := by
  rw [← transmitted_writeEvents ch cfg]
  simp [initEvents, writeEvents, transmitted]

/-- Settles O23: the events of each operation are the same in every state, and reading off their bits gives `sentBits`. -/
theorem codeIsSentMostSignificantBitFirst : Obligations.CodeIsSentMostSignificantBitFirst := by
  refine ⟨fun s c ch code h hd hc => ⟨_, exec_wseg_of_outputs s code h hd hc, ?_⟩,
    fun s c ch h hd hc hr => ⟨_, exec_init_of_outputs s h hd hc hr, ?_⟩⟩
  · rw [newEvents_of_trace (writeSegment_trace s ch code), transmitted_writeEvents]
    rfl
  · rw [newEvents_of_trace (initChannel_trace s ch), transmitted_initEvents]
    decide

end Sys2Proof.Machine

/-! SUPPORT. What leaves a shift register as it is (R41): events on lines, and operations. -/

namespace Sys2Proof.Machine

variable (s : State)

/-! ### Events on lines -/

theorem setLine_clockLine_low_sr (ch : Channel) : (setLine (clockLine ch) false s).sr = s.sr := by
  simp [setLine_clockLine_low]

/-- Driving high a clock line that is high already is no edge (R40). -/
theorem setLine_clockLine_high_again_sr (ch : Channel) (h : s.outAt (clockLine ch) = some true) :
    (setLine (clockLine ch) true s).sr = s.sr := by
  simp [setLine_clockLine_high, h, clockedStages, State.srAt]

theorem setLine_srAt_of_ne {l : DisplayLine} {ch : Channel} (v : Bit) (h : lineChannel l ≠ ch) :
    (setLine l v s).srAt ch = s.srAt ch := by
  obtain ⟨r, hr⟩ := setLine_cases s l v
  simp [hr, h.symm]

/-! ### Operations -/

@[simp] theorem configureAsInput_sr (b : ButtonLine) : (configureAsInput b s).sr = s.sr := by
  unfold configureAsInput; split <;> simp

/-- An operation moves a register only if it is an `INIT` or `WSEG` of its channel or a `CFGO` of one of its lines (R41). -/
theorem exec_srAt_ne {s t : State} {i : Instr} {ch : Channel} (h : exec i s = .next t) (hne : t.srAt ch ≠ s.srAt ch) :
    (∃ c, i = .init c ∧ c.toNat = ch.val) ∨ (∃ c code, i = .wseg c code ∧ c.toNat = ch.val) ∨
      (∃ l, i = .cfgo l ∧ l.toNat / 3 = ch.val) := by
  have moved : t.sr ≠ s.sr := fun hsr => hne (by simp only [State.srAt, hsr])
  obtain ⟨u, hu, hcases⟩ := exec_cases s i
  obtain rfl : u = t := Host.Outcome.next.inj (hu.symm.trans h)
  rcases hcases with ⟨r, rfl⟩ | ⟨l, d, rfl, hl, rfl⟩ | ⟨_, b, -, -, rfl⟩ | ⟨c, ch', rfl, hc, -, -, -, rfl⟩ |
    ⟨c, code, ch', rfl, hc, -, -, rfl⟩ | ⟨_, b, -, -, -, rfl⟩ | ⟨_, n, b, -, -, -, rfl⟩ | ⟨n, -, rfl⟩
  · exact absurd (refuse_sr ..) moved
  · have hch : ch = lineChannel d := not_imp_comm.1 (configureAsOutput_srAt s d ch) hne
    exact .inr (.inr ⟨l, rfl, by rw [hch, hl]; rfl⟩)
  · exact absurd (configureAsInput_sr ..) moved
  · have hch : ch = ch' := not_imp_comm.1 ((initChannel_frame s ch').sr ch) hne
    exact .inl ⟨c, rfl, hch ▸ hc⟩
  · have hch : ch = ch' := not_imp_comm.1 ((writeSegment_frame s ch' code).sr ch) hne
    exact .inr (.inl ⟨c, code, rfl, hch ▸ hc⟩)
  · exact absurd (isPressed_frame s b).sr moved
  · exact absurd (pollRelease_frame s b n.toNat).sr moved
  · exact absurd (delay_sr ..) moved

/-- Settles O17, from the rules of `setLine` per line and the frame of each operation. -/
theorem registersHoldOtherwise : Obligations.RegistersHoldOtherwise := by
  refine ⟨fun s ch => ⟨fun v => ?_, setLine_clockLine_low_sr s ch, setLine_clockLine_high_again_sr s ch, ?_,
    fun n => delay_sr s n, fun b => readLine_sr s b, fun _ v => setLine_srAt_of_ne s v⟩,
    fun _ _ _ _ => exec_srAt_ne⟩
  · rw [setLine_dataLine, log_sr, setOut_sr]
  · rw [setLine_resetLine_high, log_sr, setOut_sr]

end Sys2Proof.Machine

/-! SUPPORT. The number of a command word (R61), the refusals of the decoder's reserved-bits check (R68), and `DELAY` (R102). -/

namespace Sys2Proof.Machine

/-- The value of a command word, field by field (R61). -/
theorem commandWord_toNat (opc : BitVec 4) (idx : BitVec 8) (arg : BitVec 16) :
    (commandWord opc idx arg).toNat = opc.toNat * 2 ^ 28 + idx.toNat * 2 ^ 16 + arg.toNat := by
  have append_toNat {m n : Nat} (x : BitVec m) (y : BitVec n) : (x ++ y).toNat = x.toNat * 2 ^ n + y.toNat := by
    rw [BitVec.toNat_append, ← Nat.shiftLeft_add_eq_or_of_lt y.isLt, Nat.shiftLeft_eq]
  simp only [commandWord, append_toNat, BitVec.toNat_ofNat]
  omega

theorem whenReservedZero_error {w : Word} {mustBeZero : Bool} (i : Instr) (h : mustBeZero = false ∨ zaField w ≠ 0) :
    whenReservedZero w mustBeZero i = .error .reservedNonZero := by
  refine if_neg fun ⟨hza, hzero⟩ => ?_
  rcases h with hfalse | hza'
  · exact Bool.false_ne_true (hfalse.symm.trans hzero)
  · exact hza' hza

theorem decode_of_opcField_seven {w : Word} (h : opcField w = 7) :
    decode w = whenReservedZero w (idxField w == 0) (.delay (argField w)) := by
  simp [decode, h]

theorem exec_delay (s : State) (n : BitVec 16) : exec (.delay n) s = .next (delay n.toNat s) := rfl

/-- Settles O14: the word from its fields, the effect from the rule of `delay`, the refusals from the reserved-bits check. -/
theorem delayPassesTime : Obligations.DelayPassesTime := by
  refine ⟨fun n => ?_, exec_delay, fun w hopc hfields => ?_⟩
  · simpa [encode] using commandWord_toNat 7 0 n
  · rw [decode_of_opcField_seven hopc]
    exact whenReservedZero_error _ (hfields.imp_left beq_false_of_ne)

end Sys2Proof.Machine

/-! SUPPORT. The host's pure functions: the draw test (R115), glyphs and opponents (R118). -/

namespace Sys2Proof.Machine

/-- The cells of the board's list are those read by `cellAt`, index by index. -/
theorem evaluateDraw_eq_true_iff {board : Board} :
    evaluateDraw board = true ↔ ∀ i : Channel, cellAt board i ≠ .empty := by
  simp [evaluateDraw, cellAt, Fin.forall_iff]

/-- A board that `PlayerH` holds whole is full, and its first row is won: the draw test does not look for a winner. -/
theorem evaluateDraw_and_evaluateWin_of_all_playerH :
    evaluateDraw (Vector.replicate 9 (.taken .playerH)) = true ∧
      evaluateWin (Vector.replicate 9 (.taken .playerH)) = some .playerH := by decide

/-- Settles O45: the draw test cell by cell, and a board that is full and won. -/
theorem drawMeansBoardFull : Obligations.DrawMeansBoardFull := by
  obtain ⟨hfull, hwon⟩ := evaluateDraw_and_evaluateWin_of_all_playerH
  exact ⟨fun _ => evaluateDraw_eq_true_iff, _, hfull, by simp [hwon]⟩

/-- Settles O47: each equation is one arm of `glyph` or `other`. -/
theorem glyphsAndOpponents : Obligations.GlyphsAndOpponents :=
  ⟨fun _ => ⟨rfl, rfl, rfl⟩, rfl, rfl⟩

end Sys2Proof.Machine

/-! SUPPORT. The fields of a command word (R61): a word with `ZA = 0` is the word of its fields. From it, the decoder against the
encoder (R62 to R66), and the admission of a word by checks 1 to 5 over its numbers (R68). -/

namespace Sys2Proof.Machine

/-! ### The fields of a word -/

/-- A word is the sum of its four fields (R61). -/
theorem toNat_eq_fields (w : Word) :
    w.toNat = (opcField w).toNat * 2 ^ 28 + (zaField w).toNat * 2 ^ 24 + (idxField w).toNat * 2 ^ 16 + (argField w).toNat := by
  simp only [opcField, zaField, idxField, argField, BitVec.extractLsb'_toNat, Nat.shiftRight_eq_div_pow]
  omega

theorem argField_toNat (w : Word) : (argField w).toNat = (argHigh w).toNat * 2 ^ 8 + (argLow w).toNat := by
  simp only [argField, argHigh, argLow, BitVec.extractLsb'_toNat, Nat.shiftRight_eq_div_pow]
  omega

theorem zeroExtended_toNat (code : Code) : (0#8 ++ code : BitVec 16).toNat = code.toNat := by
  rw [BitVec.toNat_append, BitVec.toNat_zero, Nat.zero_shiftLeft, Nat.zero_or]

/-- A word is the command word of its fields exactly when nothing stands in `ZA`. -/
theorem commandWord_fields_eq_iff {w : Word} {opc : BitVec 4} {idx : BitVec 8} {arg : BitVec 16} :
    commandWord opc idx arg = w ↔ opcField w = opc ∧ zaField w = 0 ∧ idxField w = idx ∧ argField w = arg := by
  simp only [← BitVec.toNat_inj, commandWord_toNat, toNat_eq_fields w, BitVec.ofNat_eq_ofNat, BitVec.toNat_zero]
  omega

theorem argField_eq_zeroExtended_iff {w : Word} {code : Code} :
    argField w = 0#8 ++ code ↔ argHigh w = 0 ∧ argLow w = code := by
  simp only [← BitVec.toNat_inj, argField_toNat, zeroExtended_toNat, BitVec.ofNat_eq_ofNat, BitVec.toNat_zero]
  omega

/-- The word of an operation, as a condition on the four fields (R62). -/
theorem encode_eq_iff {w : Word} {i : Instr} :
    encode i = w ↔ zaField w = 0 ∧ match i with
      | .cfgo l => opcField w = 1 ∧ idxField w = l ∧ argField w = 0
      | .cfgi l => opcField w = 2 ∧ idxField w = l ∧ argField w = 0
      | .init ch => opcField w = 3 ∧ idxField w = ch ∧ argField w = 0
      | .wseg ch code => opcField w = 4 ∧ idxField w = ch ∧ argHigh w = 0 ∧ argLow w = code
      | .pressed l => opcField w = 5 ∧ idxField w = l ∧ argField w = 0
      | .awrel l t => opcField w = 6 ∧ idxField w = l ∧ argField w = t
      | .delay n => opcField w = 7 ∧ idxField w = 0 ∧ argField w = n := by
  cases i <;> simp only [encode, commandWord_fields_eq_iff, argField_eq_zeroExtended_iff] <;> tauto

/-! ### The decoder -/

theorem whenReservedZero_eq_ok {w : Word} {mustBeZero : Bool} {i j : Instr} :
    whenReservedZero w mustBeZero i = .ok j ↔ (zaField w = 0 ∧ mustBeZero = true) ∧ i = j := by
  unfold whenReservedZero; split <;> simp_all

theorem whenReservedZero_eq_error {w : Word} {mustBeZero : Bool} {i : Instr} {r : Reason} :
    whenReservedZero w mustBeZero i = .error r ↔ r = .reservedNonZero ∧ (zaField w ≠ 0 ∨ mustBeZero = false) := by
  unfold whenReservedZero; split <;> simp_all [eq_comm, imp_iff_not_or]

/-- The opcode map of the decoder, the seven opcodes apart (R62). -/
theorem opcField_cases (w : Word) :
    opcField w = 1 ∨ opcField w = 2 ∨ opcField w = 3 ∨ opcField w = 4 ∨ opcField w = 5 ∨ opcField w = 6 ∨
      opcField w = 7 ∨ opcField w = 0 ∨ 7 < (opcField w).toNat := by
  generalize opcField w = x
  revert x; decide

theorem decode_badOpcode {w : Word} (h : opcField w = 0 ∨ 7 < (opcField w).toNat) : decode w = .error .badOpcode := by
  have hn : (opcField w).toNat = 0 ∨ 7 < (opcField w).toNat := h.imp_left (congrArg BitVec.toNat)
  unfold decode
  split
  case h_8 => rfl
  all_goals omega

theorem decode_encode (i : Instr) : decode (encode i) = .ok i := by
  have h := (encode_eq_iff (i := i)).1 rfl
  cases i <;> simp_all [decode, whenReservedZero]

theorem encode_of_decode {w : Word} {i : Instr} (h : decode w = .ok i) : encode i = w := by
  rw [encode_eq_iff]
  rcases opcField_cases w with ho | ho | ho | ho | ho | ho | ho | ho
  case inr.inr.inr.inr.inr.inr.inr =>
    rw [decode_badOpcode ho] at h
    cases h
  all_goals
    simp only [decode, ho] at h
    obtain ⟨⟨hza, hzero⟩, rfl⟩ := whenReservedZero_eq_ok.1 h
    simp_all

/-- Settles O1: the fields of a word with nothing in `ZA` and the must-be-zero parts determine it. -/
theorem decodeInvertsEncode : Obligations.DecodeInvertsEncode :=
  fun _ _ => ⟨encode_of_decode, fun h => h ▸ decode_encode _⟩

/-- Settles O3: each word is the encoding of the operation beside it. -/
theorem exampleWordsDecode : Obligations.ExampleWordsDecode :=
  ⟨decode_encode (.cfgo 0), decode_encode (.cfgo 1), decode_encode (.cfgo 26), decode_encode (.cfgi 27),
    decode_encode (.cfgi 36), decode_encode (.init 8), decode_encode (.wseg 0 0x76), decode_encode (.wseg 4 0x3F),
    decode_encode (.pressed 31), decode_encode (.awrel 31 1000), decode_encode (.delay 500)⟩

/-! ### Admission -/

theorem admitWord_of_decode_error {w : Word} {r : Reason} (h : decode w = .error r) : admitWord w = .error r := by
  simp [admitWord, h]

theorem admitWord_of_operandReason {i : Instr} {r : Reason} (h : i.operandReason = some r) :
    admitWord (encode i) = .error r := by
  simp [admitWord, decode_encode, h]

theorem admitWord_of_wellFormed {i : Instr} (h : i.WellFormed) : admitWord (encode i) = .ok i := by
  simp [admitWord, decode_encode, h]

theorem argField_div (w : Word) : (argField w).toNat / 256 = (argHigh w).toNat := by
  have := argField_toNat w; omega

/-- A word that does not decode fails check 1, or passes it and fails check 2 or 3, read as numbers (R68). -/
theorem decode_eq_error {w : Word} {r : Reason} (h : decode w = .error r) :
    r = .badOpcode ∧ ((opcField w).toNat = 0 ∨ 7 < (opcField w).toNat) ∨
      r = .reservedNonZero ∧ ¬ ((opcField w).toNat = 0 ∨ 7 < (opcField w).toNat) ∧
        ((zaField w).toNat ≠ 0 ∨ (opcField w).toNat ∈ [1, 2, 3, 5] ∧ (argField w).toNat ≠ 0 ∨
          (opcField w).toNat = 4 ∧ (argField w).toNat / 256 ≠ 0 ∨ (opcField w).toNat = 7 ∧ (idxField w).toNat ≠ 0) := by
  rw [argField_div]
  rcases opcField_cases w with ho | ho | ho | ho | ho | ho | ho | ho
  case inr.inr.inr.inr.inr.inr.inr =>
    rw [decode_badOpcode ho] at h
    exact .inl ⟨(Except.error.inj h).symm, ho.imp_left (congrArg BitVec.toNat)⟩
  all_goals
    simp only [decode, ho] at h
    obtain ⟨rfl, hbits⟩ := whenReservedZero_eq_error.1 h
    exact .inr ⟨rfl, by simp [ho], hbits.imp (by simp [← BitVec.toNat_inj]) (by simp [ho, ← BitVec.toNat_inj])⟩

/-- The word of an operation passes checks 1 to 3 of R68, read as numbers. -/
theorem encode_passes (i : Instr) : ¬ ((opcField (encode i)).toNat = 0 ∨ 7 < (opcField (encode i)).toNat) ∧
    (zaField (encode i)).toNat = 0 ∧
    ¬ ((opcField (encode i)).toNat ∈ [1, 2, 3, 5] ∧ (argField (encode i)).toNat ≠ 0 ∨
      (opcField (encode i)).toNat = 4 ∧ (argField (encode i)).toNat / 256 ≠ 0 ∨
      (opcField (encode i)).toNat = 7 ∧ (idxField (encode i)).toNat ≠ 0) := by
  have hfields := (encode_eq_iff (i := i)).1 rfl
  rw [argField_div]
  cases i <;> simp [hfields]

theorem channelReason_eq (c : BitVec 8) : channelReason c = if 8 < c.toNat then some .indexOutOfRange else none := by
  rw [channelReason, ← ite_not]
  simp only [not_le]

/-- Checks 4 and 5 of R68 on an operation, as checks on the numbers in its word. -/
theorem operandReason_eq (i : Instr) : i.operandReason =
    if (opcField (encode i)).toNat ∈ [3, 4] ∧ 8 < (idxField (encode i)).toNat ∨
        (opcField (encode i)).toNat ∈ [1, 2, 5, 6] ∧ 36 < (idxField (encode i)).toNat then some .indexOutOfRange
    else if (opcField (encode i)).toNat = 1 ∧ 26 < (idxField (encode i)).toNat ∨
        (opcField (encode i)).toNat ∈ [2, 5, 6] ∧ (idxField (encode i)).toNat < 27 then some .lineClassMismatch
    else none := by
  have hfields := (encode_eq_iff (i := i)).1 rfl
  cases i with
  | cfgo l => simp [hfields, Instr.operandReason, displayLineReason]
  | cfgi l => simp [hfields, Instr.operandReason, buttonLineReason]
  | init ch => simp [hfields, Instr.operandReason, channelReason_eq]
  | wseg ch code => simp [hfields, Instr.operandReason, channelReason_eq]
  | pressed l => simp [hfields, Instr.operandReason, buttonLineReason]
  | awrel l t => simp [hfields, Instr.operandReason, buttonLineReason]
  | delay n => simp [hfields, Instr.operandReason]

/-- Settles O2: a word that decodes is the encoding of its operation, whose fields are the word's; one that does not has failed
check 1, 2 or 3. -/
theorem admissionRunsChecksInOrder : Obligations.AdmissionRunsChecksInOrder := by
  intro w
  have hw := toNat_eq_fields w
  have hopc : w.toNat / 2 ^ 28 = (opcField w).toNat := by omega
  have hza : w.toNat / 2 ^ 24 % 16 = (zaField w).toNat := by omega
  have hidx : w.toNat / 2 ^ 16 % 256 = (idxField w).toNat := by omega
  have harg : w.toNat % 2 ^ 16 = (argField w).toNat := by omega
  simp only [hopc, hza, hidx, harg]
  clear hw hopc hza hidx harg
  cases hd : decode w with
  | error r =>
    rw [admitWord_of_decode_error hd]
    rcases decode_eq_error hd with ⟨rfl, ho⟩ | ⟨rfl, ho, hbits⟩
    · rw [if_pos ho]
    · rw [if_neg ho]
      by_cases hza : (zaField w).toNat = 0
      · rw [if_neg (not_not.2 hza), if_pos (hbits.resolve_left (not_not.2 hza))]
      · rw [if_pos hza]
  | ok i =>
    obtain rfl := encode_of_decode hd
    obtain ⟨ho, hza, hbits⟩ := encode_passes i
    rw [if_neg ho, if_neg (not_not.2 hza), if_neg hbits]
    have hreason := operandReason_eq i
    split_ifs at hreason ⊢
    · exact admitWord_of_operandReason hreason
    · exact admitWord_of_operandReason hreason
    · exact ⟨i, hreason, rfl, admitWord_of_wellFormed hreason⟩

end Sys2Proof.Machine

/-! SUPPORT. The textual form read back (R69): digits, operands without separators, one or two of them after a mnemonic. -/

namespace Sys2Proof.Machine

/-! ### Numbers -/

theorem digitValue_digitChar {d : Nat} (h : d < 16) : digitValue d.digitChar = some d := by
  interval_cases d <;> rfl

/-- Reading the digits of a number, whatever follows them. -/
theorem readDigits_toDigits_append {base : Nat} (hlo : 1 < base) (hhi : base ≤ 16) (n : Nat) (rest : Text) :
    readDigits base (Nat.toDigits base n ++ rest) 0 = readDigits base rest n := by
  induction n using Nat.strongRecOn generalizing rest with
  | ind n ih =>
    rw [Nat.toDigits_eq_if hlo]
    split
    case isTrue h => simp [readDigits, digitValue_digitChar (h.trans_le hhi), h]
    case isFalse h =>
      have hmod : n % base < base := Nat.mod_lt _ (by omega)
      rw [List.append_assoc, ih _ (Nat.div_lt_self (by omega) hlo)]
      simp [readDigits, digitValue_digitChar (hmod.trans_le hhi), hmod, Nat.div_add_mod']

theorem readNumber_toDigits {base bound n : Nat} (hlo : 1 < base) (hhi : base ≤ 16) (hn : n < bound) :
    readNumber base bound (Nat.toDigits base n) = some n := by
  have hread := readDigits_toDigits_append hlo hhi n []
  rw [List.append_nil] at hread
  cases ht : Nat.toDigits base n with
  | nil => exact absurd (congrArg List.length ht) Nat.length_toDigits_pos.ne'
  | cons c t =>
    rw [ht] at hread
    rw [readNumber, hread]
    simp [readDigits, hn]

theorem readChannel_decText (ch : BitVec 8) : readChannel (decText ch.toNat) = some ch := by
  simp [readChannel, decText, readNumber_toDigits, ch.isLt]

theorem readMs_decText (t : BitVec 16) : readMs (decText t.toNat) = some t := by
  simp [readMs, decText, readNumber_toDigits, t.isLt]

theorem readCode_codeText (cfg : Config) (code : Code) : readCode cfg (codeText code) = some code := by
  have hname : ∀ t : Text, t.head? ≠ some '0' → codeText code ≠ t := by rintro _ h rfl; exact h rfl
  unfold readCode
  rw [if_neg (hname _ (by decide)), if_neg (hname _ (by decide)), if_neg (hname _ (by decide))]
  simp [codeText, readNumber_toDigits, code.isLt]

/-- A letter and a digit up to 8 name a line, if the letter is one of the four (R69). -/
theorem readLineId_name (k : Char) {d : Nat} (hd : d ≤ 8) : readLineId (k :: decText d) =
    if k = 'D' then some (BitVec.ofNat 8 (3 * d)) else if k = 'C' then some (BitVec.ofNat 8 (3 * d + 1))
    else if k = 'R' then some (BitVec.ofNat 8 (3 * d + 2)) else if k = 'B' then some (BitVec.ofNat 8 (27 + d))
    else readChannel (k :: decText d) := by
  have htext : decText d = [d.digitChar] := Nat.toDigits_of_lt_base (by omega)
  have hname : [k, d.digitChar] ≠ "RSTB".toList := fun h => absurd (congrArg List.length h) (by decide : 2 ≠ 4)
  rw [htext, readLineId, if_neg hname]
  simp [digitValue_digitChar (by omega : d < 16), hd.not_gt]

/-- A text of decimal digits is no line name. -/
theorem readLineId_of_digits {t : Text} (h : ∀ c ∈ t, c.isDigit = true) : readLineId t = readChannel t := by
  have hname : t ≠ "RSTB".toList := by rintro rfl; exact absurd (h 'R' (by decide)) (by decide)
  unfold readLineId
  rw [if_neg hname]
  rcases t with _ | ⟨k, _ | ⟨c, _ | ⟨_, _⟩⟩⟩
  case cons.cons.nil =>
    have hk : k.isDigit = true := h k (by simp)
    have hc : '0' ≤ c ∧ c ≤ '9' := by simpa [Char.isDigit, Char.le_def] using h c (by simp)
    have letter : ∀ k', k'.isDigit = false → k ≠ k' := by rintro _ hk' rfl; simp [hk] at hk'
    simp [digitValue, hc, letter 'D' rfl, letter 'C' rfl, letter 'R' rfl, letter 'B' rfl]
  all_goals rfl

theorem readLineId_lineText (l : BitVec 8) : readLineId (lineText l) = some l := by
  have of_toNat : ∀ {n : Nat}, n = l.toNat → some (BitVec.ofNat 8 n) = some l := by rintro _ rfl; simp
  unfold lineText
  split_ifs with hdisplay h0 h1 hcell hreset
  · rw [readLineId_name _ (by omega)]; exact of_toNat (by omega)
  · rw [readLineId_name _ (by omega)]; exact of_toNat (by omega)
  · rw [readLineId_name _ (by omega)]; exact of_toNat (by omega)
  · rw [readLineId_name _ (by omega)]; exact of_toNat (by omega)
  · exact of_toNat hreset.symm
  · rw [readLineId_of_digits, readChannel_decText]
    exact fun c hc => Nat.isDigit_of_mem_toDigits (by decide) (by decide) hc

/-! ### Operands without separators -/

/-- A character that separates nothing: no blank, no comma, no dash. -/
abbrev IsPlain (c : Char) : Prop := c ∉ [' ', '\t', ',', '-']

/-- A text that reads as one piece. -/
abbrev PlainText (t : Text) : Prop := t ≠ [] ∧ ∀ c ∈ t, IsPlain c

theorem isBlank_of_isPlain {c : Char} (h : IsPlain c) : isBlank c = false := by
  simp_all [IsPlain, isBlank]

theorem cutComment_of_no_dash {t : Text} (h : '-' ∉ t) : cutComment t = t := by
  induction t using cutComment.induct with
  | case1 => rfl
  | case2 c => rfl
  | case3 c d rest hd => simp_all
  | case4 c d rest hd ih => rw [cutComment, if_neg hd, ih (by simp_all)]

theorem trimText_of_ends {t : Text} (hfirst : ∀ c ∈ t.head?, isBlank c = false)
    (hlast : ∀ c ∈ t.getLast?, isBlank c = false) : trimText t = t := by
  have drop : ∀ u : Text, (∀ c ∈ u.head?, isBlank c = false) → u.dropWhile isBlank = u := by
    rintro (_ | ⟨c, u⟩) hu
    · rfl
    · simp_all
  rw [trimText, drop t hfirst, drop t.reverse (by simpa using hlast), List.reverse_reverse]

theorem trimText_blank_cons (t : Text) : trimText (' ' :: t) = trimText t := rfl

theorem PlainText.trim {t : Text} (h : PlainText t) : trimText t = t :=
  trimText_of_ends (fun c hc => isBlank_of_isPlain (h.2 c (List.mem_of_mem_head? hc)))
    fun c hc => isBlank_of_isPlain (h.2 c (List.mem_of_getLast? hc))

theorem splitCommas_of_no_comma {t : Text} (h : ',' ∉ t) : splitCommas t = [t] := by
  induction t with
  | nil => rfl
  | cons c t ih =>
    rw [List.mem_cons, not_or] at h
    rw [splitCommas, if_neg (Ne.symm h.1), ih h.2]

theorem splitCommas_append {t : Text} (h : ',' ∉ t) (rest : Text) :
    splitCommas (t ++ ',' :: rest) = t :: splitCommas rest := by
  induction t with
  | nil => rfl
  | cons c t ih =>
    rw [List.mem_cons, not_or] at h
    rw [List.cons_append, splitCommas, if_neg (Ne.symm h.1), ih h.2]

theorem isPlain_digitChar {d : Nat} (h : d < 16) : IsPlain d.digitChar := by
  interval_cases d <;> decide

theorem plainText_toDigits {base : Nat} (hlo : 1 < base) (hhi : base ≤ 16) (n : Nat) : PlainText (Nat.toDigits base n) := by
  refine ⟨fun h => absurd (congrArg List.length h) Nat.length_toDigits_pos.ne', ?_⟩
  induction n using Nat.strongRecOn with
  | ind n ih =>
    rw [Nat.toDigits_eq_if hlo]
    split
    case isTrue h => exact List.forall_mem_singleton.2 (isPlain_digitChar (h.trans_le hhi))
    case isFalse h =>
      have hmod : n % base < base := Nat.mod_lt _ (by omega)
      exact List.forall_mem_append.2 ⟨ih _ (Nat.div_lt_self (by omega) hlo),
        List.forall_mem_singleton.2 (isPlain_digitChar (hmod.trans_le hhi))⟩

theorem PlainText.cons {c : Char} {t : Text} (hc : IsPlain c) (ht : PlainText t) : PlainText (c :: t) :=
  ⟨List.cons_ne_nil _ _, List.forall_mem_cons.2 ⟨hc, ht.2⟩⟩

theorem plainText_decText (n : Nat) : PlainText (decText n) := plainText_toDigits (by decide) (by decide) n

theorem plainText_codeText (code : Code) : PlainText (codeText code) :=
  (plainText_toDigits (by decide) (by decide) _).cons (by decide) |>.cons (by decide)

theorem plainText_lineText (l : BitVec 8) : PlainText (lineText l) := by
  unfold lineText
  split_ifs
  · exact (plainText_decText _).cons (by decide)
  · exact (plainText_decText _).cons (by decide)
  · exact (plainText_decText _).cons (by decide)
  · exact (plainText_decText _).cons (by decide)
  · have hname : "RSTB".toList = ['R', 'S', 'T', 'B'] := by simp
    simp [hname, PlainText, IsPlain]
  · exact plainText_decText _

/-! ### A line of a mnemonic and its operands -/

/-- A mnemonic, a blank, and a text that ends in no blank and holds no dash: the two ends are found (R69). -/
theorem parseCommand_split (cfg : Config) {name ops : Text} (hname : PlainText name) (hops : ops ≠ [])
    (hdash : '-' ∉ ops) (hlast : ∀ c ∈ ops.getLast?, isBlank c = false) :
    parseCommand cfg (name ++ ' ' :: ops) = readOperation cfg name ((splitCommas (' ' :: ops)).map trimText) := by
  obtain ⟨hne, hplain⟩ := hname
  have hnodash : '-' ∉ name ++ ' ' :: ops := by
    have : '-' ∉ name := fun h => absurd (hplain _ h) (by decide)
    simp [this, hdash]
  have hends : trimText (name ++ ' ' :: ops) = name ++ ' ' :: ops := by
    apply trimText_of_ends
    · obtain ⟨c, t, rfl⟩ := List.exists_cons_of_ne_nil hne
      simpa using isBlank_of_isPlain (hplain c (by simp))
    · obtain ⟨c, t, rfl⟩ := List.exists_cons_of_ne_nil hops
      simpa using hlast
  have hblank : ∀ c ∈ name, (!isBlank c) = true := fun c hc => by simp [isBlank_of_isPlain (hplain c hc)]
  rw [parseCommand, cutComment_of_no_dash hnodash, hends, List.takeWhile_append_of_pos hblank,
    List.dropWhile_append_of_pos hblank]
  simp [isBlank]

theorem PlainText.notMem {c : Char} {t : Text} (ht : PlainText t) (hc : ¬ IsPlain c) : c ∉ t := fun h => hc (ht.2 c h)

theorem PlainText.last {t : Text} (ht : PlainText t) : ∀ c ∈ t.getLast?, isBlank c = false :=
  fun c hc => isBlank_of_isPlain (ht.2 c (List.mem_of_getLast? hc))

theorem parseCommand_one (cfg : Config) {name a : Text} (hname : PlainText name) (ha : PlainText a) :
    parseCommand cfg (name ++ ' ' :: a) = readOperation cfg name [a] := by
  have hcomma : ',' ∉ ' ' :: a := by simpa using ha.notMem (by decide)
  rw [parseCommand_split cfg hname ha.1 (ha.notMem (by decide)) ha.last, splitCommas_of_no_comma hcomma]
  simp [trimText_blank_cons, ha.trim]

theorem parseCommand_two (cfg : Config) {name a b : Text} (hname : PlainText name) (ha : PlainText a) (hb : PlainText b) :
    parseCommand cfg (name ++ ' ' :: (a ++ ',' :: ' ' :: b)) = readOperation cfg name [a, b] := by
  have hcomma : ',' ∉ ' ' :: a := by simpa using ha.notMem (by decide)
  have hcomma' : ',' ∉ ' ' :: b := by simpa using hb.notMem (by decide)
  have hdash : '-' ∉ a ++ ',' :: ' ' :: b := by simp [ha.notMem (c := '-') (by decide), hb.notMem (c := '-') (by decide)]
  have hlast : ∀ c ∈ (a ++ ',' :: ' ' :: b).getLast?, isBlank c = false := by
    obtain ⟨c, t, rfl⟩ := List.exists_cons_of_ne_nil hb.1
    simpa using hb.last
  rw [parseCommand_split cfg hname (by simp) hdash hlast, ← List.cons_append, splitCommas_append hcomma,
    splitCommas_of_no_comma hcomma']
  simp [trimText_blank_cons, ha.trim, hb.trim]

/-- Settles O4: the operands of each printed form are plain, and each reads back. -/
theorem textFormReadsBack : Obligations.TextFormReadsBack := by
  intro cfg i
  cases i with
  | cfgo l =>
    have htext : commandText (.cfgo l) = ['C', 'F', 'G', 'O'] ++ ' ' :: lineText l :=
      (by simp : "CFGO ".toList ++ lineText l = _)
    rw [htext, parseCommand_one cfg (by simp [PlainText, IsPlain]) (plainText_lineText l)]
    simp [readOperation, readLineId_lineText]
  | cfgi l =>
    have htext : commandText (.cfgi l) = ['C', 'F', 'G', 'I'] ++ ' ' :: lineText l :=
      (by simp : "CFGI ".toList ++ lineText l = _)
    rw [htext, parseCommand_one cfg (by simp [PlainText, IsPlain]) (plainText_lineText l)]
    simp [readOperation, readLineId_lineText]
  | init ch =>
    have htext : commandText (.init ch) = ['I', 'N', 'I', 'T'] ++ ' ' :: decText ch.toNat :=
      (by simp : "INIT ".toList ++ decText ch.toNat = _)
    rw [htext, parseCommand_one cfg (by simp [PlainText, IsPlain]) (plainText_decText _)]
    simp [readOperation, readChannel_decText]
  | wseg ch code =>
    have htext : commandText (.wseg ch code) = ['W', 'S', 'E', 'G'] ++ ' ' :: (decText ch.toNat ++ ',' :: ' ' :: codeText code) :=
      (by simp : "WSEG ".toList ++ decText ch.toNat ++ ", ".toList ++ codeText code = _)
    rw [htext, parseCommand_two cfg (by simp [PlainText, IsPlain]) (plainText_decText _) (plainText_codeText code)]
    simp [readOperation, readChannel_decText, readCode_codeText]
  | pressed l =>
    have htext : commandText (.pressed l) = ['P', 'R', 'E', 'S', 'S', 'E', 'D'] ++ ' ' :: lineText l :=
      (by simp : "PRESSED ".toList ++ lineText l = _)
    rw [htext, parseCommand_one cfg (by simp [PlainText, IsPlain]) (plainText_lineText l)]
    simp [readOperation, readLineId_lineText]
  | awrel l t =>
    have htext : commandText (.awrel l t) = ['A', 'W', 'R', 'E', 'L'] ++ ' ' :: (lineText l ++ ',' :: ' ' :: decText t.toNat) :=
      (by simp : "AWREL ".toList ++ lineText l ++ ", ".toList ++ decText t.toNat = _)
    rw [htext, parseCommand_two cfg (by simp [PlainText, IsPlain]) (plainText_lineText l) (plainText_decText _)]
    simp [readOperation, readLineId_lineText, readMs_decText]
  | delay n =>
    have htext : commandText (.delay n) = ['D', 'E', 'L', 'A', 'Y'] ++ ' ' :: decText n.toNat :=
      (by simp : "DELAY ".toList ++ decText n.toNat = _)
    rw [htext, parseCommand_one cfg (by simp [PlainText, IsPlain]) (plainText_decText _)]
    simp [readOperation, readMs_decText]

end Sys2Proof.Machine

/-! SUPPORT. The step case by case (R48, R60, R165), refusals as whole-state updates (R146, R147), and what an operation does as an
inductive relation, so that later proofs name their cases. -/

namespace Sys2Proof.Machine

variable (s : State)

/-! ### The step -/

theorem step_of_command {s : State} {w : Word} {rest : List Word} {i : Instr} (hc : s.commands = w :: rest)
    (hd : decode w = .ok i) : step s = exec i { s with commands := rest, cp := s.cp + 1 } := by
  simp [step, takeCommand, hc, hd]

theorem step_of_badWord {s : State} {w : Word} {rest : List Word} {r : Reason} (hc : s.commands = w :: rest)
    (hd : decode w = .error r) : step s = .next (refuse r w { s with commands := rest, cp := s.cp + 1 }) := by
  simp [step, takeCommand, hc, hd]

theorem step_of_idle {s : State} (hc : s.commands = []) : step s = .next (betweenCommands s) := by
  simp [step, takeCommand, hc]

/-- Settles O5: the arm of `step` for a command that decodes. -/
theorem stepRunsDecodedCommand : Obligations.StepRunsDecodedCommand :=
  fun _ _ _ _ => step_of_command

/-- Settles O7: the two arms of `betweenCommands`. -/
theorem nothingWaitingLeavesTheBlock : Obligations.NothingWaitingLeavesTheBlock := by
  refine fun s hc => ⟨fun hh => ?_, fun h hh => ?_⟩
  · rw [step_of_idle hc, betweenCommands, hh]
  · rw [step_of_idle hc, betweenCommands, hh]

theorem decode_of_decodeTableWord {nbits w : Nat} {i : Instr} (h : decodeTableWord nbits w = some i) :
    decode (BitVec.ofNat 32 (w % 2 ^ nbits)) = .ok i := by
  unfold decodeTableWord at h
  split at h
  · split at h <;> simp_all
  · simp at h

/-- Settles O8: the placed word is the head of the waiting commands. -/
theorem placedWordRunsNext : Obligations.PlacedWordRunsNext :=
  fun _ _ _ _ h => step_of_command rfl (decode_of_decodeTableWord h)

/-- Settles O9: `exec_cases` gives every operation a next state; a step is an operation, a refusal or a turn. -/
theorem noOperationFails : Obligations.NoOperationFails := by
  have hexec : ∀ (i : Instr) (s : State), ∃ t, exec i s = .next t := fun i s => (exec_cases s i).imp fun _ h => h.1
  refine ⟨hexec, fun s => ?_⟩
  cases hc : s.commands with
  | nil => exact ⟨_, step_of_idle hc⟩
  | cons w rest =>
    cases hd : decode w with
    | ok i => rw [step_of_command hc hd]; exact hexec i _
    | error r => exact ⟨_, step_of_badWord hc hd⟩

/-! ### Refusals -/

/-- A refusal as one update: the mark keeps the first reason, and its word is that reason's (R146, R147). -/
theorem refuse_eq (r : Reason) (w : Word) : refuse r w s =
    { s with
      refused := s.refused.or (some r)
      refusedWord := if s.refused = none then some w else s.refusedWord } := by
  cases h : s.refused with
  | none => simp [refuse_first s r w h]
  | some q => rw [refuse_again s r w (by simp [h])]; cases s; cases h; rfl

/-- Settles O6: the arm of `step` for a word that does not decode, its refusal as one update. -/
theorem stepRefusesUndecodableWord : Obligations.StepRefusesUndecodableWord := by
  intro s w rest r hc hd
  rw [step_of_badWord hc hd, refuse_eq]

/-- An operation whose operands fail check 4 or 5 is refused with that check's reason (R68). -/
theorem exec_of_operandReason {i : Instr} {r : Reason} (h : i.operandReason = some r) :
    exec i s = .next (refuse r (encode i) s) := by
  have channel : ∀ {c}, channelReason c = some r → channelOperand c = .error r := fun {c} hc => by
    rcases channelOperand_eq c with ⟨-, h'⟩ | ⟨r', he, h'⟩ <;> simp_all
  have display : ∀ {l}, displayLineReason l = some r → displayOperand l = .error r := fun {l} hl => by
    rcases displayOperand_eq l with ⟨-, h'⟩ | ⟨r', he, h'⟩ <;> simp_all
  have button : ∀ {l}, buttonLineReason l = some r → buttonOperand l = .error r := fun {l} hl => by
    rcases buttonOperand_eq l with ⟨-, h'⟩ | ⟨r', he, h'⟩ <;> simp_all
  cases i with
  | cfgo l => simp [exec, execCfgo, display h]
  | cfgi l => simp [exec, execCfgi, button h]
  | init c => simp [exec, execInit, channel h]
  | wseg c code => simp [exec, execWseg, channel h]
  | pressed l => simp [exec, execPressed, button h]
  | awrel l n => simp [exec, execAwrel, button h]
  | delay n => cases h

/-- Settles O28: by operand class, with the refusal as one update. -/
theorem badOperandsAreRefused : Obligations.BadOperandsAreRefused := by
  intro i s r h
  rw [exec_of_operandReason s h, refuse_eq]

theorem isOutput_iff (l : DisplayLine) : s.isOutput l = true ↔ s.dirAt (displayId l) = .output := beq_iff_eq

theorem isInput_iff (b : ButtonLine) : s.isInput b = true ↔ s.dirAt (buttonId b) = .input := beq_iff_eq

/-- Settles O29: check 6 of R68 fails, after the operand check has given the channel. -/
theorem unconfiguredLinesAreRefused : Obligations.UnconfiguredLinesAreRefused := by
  intro s c ch code h
  rw [← refuse_eq, ← refuse_eq]
  simp only [exec, execWseg, execInit, channelOperand_of_val h, isOutput_iff]
  exact ⟨fun ho => by rw [if_neg (by tauto)]; rfl, fun ho => by rw [if_neg (by tauto)]; rfl⟩

/-! ### What an operation does -/

/-- What an operation makes of a state: its refusal, or its body on good operands with its lines configured as check 6 of R68
asks. -/
inductive Effect (s : State) : Instr → State → Prop
  | refused (i : Instr) (r : Reason) : Effect s i (refuse r (encode i) s)
  | cfgo {l : BitVec 8} (d : DisplayLine) : l.toNat = d.val → Effect s (.cfgo l) (configureAsOutput d s)
  | cfgi {l : BitVec 8} (b : ButtonLine) : l.toNat = 27 + b.val → Effect s (.cfgi l) (configureAsInput b s)
  | init {c : BitVec 8} (ch : Channel) : c.toNat = ch.val → s.isOutput (dataLine ch) = true →
      s.isOutput (clockLine ch) = true → s.isOutput (resetLine ch) = true → Effect s (.init c) (initChannel ch s)
  | wseg {c : BitVec 8} (ch : Channel) (code : Code) : c.toNat = ch.val → s.isOutput (dataLine ch) = true →
      s.isOutput (clockLine ch) = true → Effect s (.wseg c code) (writeSegment ch code s)
  | pressed {l : BitVec 8} (b : ButtonLine) : l.toNat = 27 + b.val → s.isInput b = true →
      Effect s (.pressed l) (isPressed b s)
  | awrel {l : BitVec 8} (b : ButtonLine) (n : BitVec 16) : l.toNat = 27 + b.val → s.isInput b = true →
      Effect s (.awrel l n) (pollRelease b n.toNat s)
  | delay (n : BitVec 16) : Effect s (.delay n) (delay n.toNat s)

theorem effect_of_exec {s t : State} {i : Instr} (h : exec i s = .next t) : Effect s i t := by
  obtain ⟨u, hu, hcases⟩ := exec_cases s i
  obtain rfl : u = t := Host.Outcome.next.inj (hu.symm.trans h)
  rcases hcases with ⟨r, rfl⟩ | ⟨l, d, rfl, hl, rfl⟩ | ⟨l, b, rfl, hl, rfl⟩ | ⟨c, ch, rfl, hc, hd, hk, hr, rfl⟩ |
    ⟨c, code, ch, rfl, hc, hd, hk, rfl⟩ | ⟨l, b, rfl, hl, hi, rfl⟩ | ⟨l, n, b, rfl, hl, hi, rfl⟩ | ⟨n, rfl, rfl⟩
  · exact .refused i r
  · exact .cfgo d hl
  · exact .cfgi b hl
  · exact .init ch hc hd hk hr
  · exact .wseg ch code hc hd hk
  · exact .pressed b hl hi
  · exact .awrel b n hl hi
  · exact .delay n

/-- The state in which the next command runs: that command taken, `cp` advanced (R21). -/
def State.taken (s : State) : State := { s with commands := s.commands.tail, cp := s.cp + 1 }

@[simp] theorem taken_dir : s.taken.dir = s.dir := rfl
@[simp] theorem taken_out : s.taken.out = s.out := rfl
@[simp] theorem taken_sr : s.taken.sr = s.sr := rfl
@[simp] theorem taken_res : s.taken.res = s.res := rfl
@[simp] theorem taken_time : s.taken.time = s.time := rfl
@[simp] theorem taken_trace : s.taken.trace = s.trace := rfl
@[simp] theorem taken_refused : s.taken.refused = s.refused := rfl
@[simp] theorem taken_refusedWord : s.taken.refusedWord = s.refusedWord := rfl
@[simp] theorem taken_cp : s.taken.cp = s.cp + 1 := rfl
@[simp] theorem taken_cfg : s.taken.cfg = s.cfg := rfl
@[simp] theorem taken_commands : s.taken.commands = s.commands.tail := rfl
@[simp] theorem taken_host : s.taken.host = s.host := rfl
@[simp] theorem dirAt_taken (l : Line) : s.taken.dirAt l = s.dirAt l := rfl
@[simp] theorem outAt_taken (l : DisplayLine) : s.taken.outAt l = s.outAt l := rfl
@[simp] theorem srAt_taken (ch : Channel) : s.taken.srAt ch = s.srAt ch := rfl

/-- What a step does: the turn between commands, or the effect or refusal of the next command on the state with it taken. -/
theorem step_inversion {s t : State} (h : step s = .next t) :
    s.commands = [] ∧ t = betweenCommands s ∨
      ∃ w, s.commands = w :: s.commands.tail ∧
        ((∃ i, decode w = .ok i ∧ Effect s.taken i t) ∨ ∃ r, decode w = .error r ∧ t = refuse r w s.taken) := by
  rcases step_cases h with hidle | ⟨w, rest, hw, hrun⟩
  · exact .inl hidle
  · obtain rfl : s.commands.tail = rest := by rw [hw]; rfl
    exact .inr ⟨w, hw, hrun.imp_left fun ⟨i, hd, hi⟩ => ⟨i, hd, effect_of_exec hi⟩⟩

/-! ### The sticky mark -/

@[simp] theorem betweenCommands_refusedWord : (betweenCommands s).refusedWord = s.refusedWord := by
  unfold betweenCommands; split <;> rfl

@[simp] theorem configureAsOutput_refused (d : DisplayLine) : (configureAsOutput d s).refused = s.refused := by
  unfold configureAsOutput; split <;> simp
@[simp] theorem configureAsOutput_refusedWord (d : DisplayLine) : (configureAsOutput d s).refusedWord = s.refusedWord := by
  unfold configureAsOutput; split <;> simp
@[simp] theorem configureAsInput_refused (b : ButtonLine) : (configureAsInput b s).refused = s.refused := by
  unfold configureAsInput; split <;> simp
@[simp] theorem configureAsInput_refusedWord (b : ButtonLine) : (configureAsInput b s).refusedWord = s.refusedWord := by
  unfold configureAsInput; split <;> simp

/-- An operation that is not refused leaves the mark and its word. -/
theorem Effect.refusal {s t : State} {i : Instr} (h : Effect s i t) :
    (∃ r, t = refuse r (encode i) s) ∨ t.refused = s.refused ∧ t.refusedWord = s.refusedWord := by
  cases h with
  | refused _ r => exact .inl ⟨r, rfl⟩
  | cfgo d hl => simp
  | cfgi b hl => simp
  | init ch hc => exact .inr ⟨(initChannel_frame s ch).refused, (initChannel_frame s ch).refusedWord⟩
  | wseg ch code hc => exact .inr ⟨(writeSegment_frame s ch code).refused, (writeSegment_frame s ch code).refusedWord⟩
  | pressed b hl => exact .inr ⟨(isPressed_frame s b).refused, (isPressed_frame s b).refusedWord⟩
  | awrel b n hl => exact .inr ⟨(pollRelease_frame s b _).refused, (pollRelease_frame s b _).refusedWord⟩
  | delay n => simp

theorem refuse_of_refused {s : State} {q : Reason} (h : s.refused = some q) (r : Reason) (w : Word) : refuse r w s = s :=
  refuse_again s r w (by simp [h])

/-- Settles O30: a further refusal changes nothing, and nothing else writes the mark. -/
theorem refusalMarkIsSticky : Obligations.RefusalMarkIsSticky := by
  intro s t r hr h
  rcases step_inversion h with ⟨-, rfl⟩ | ⟨w, -, ⟨i, -, he⟩ | ⟨r', -, rfl⟩⟩
  · simp [hr]
  · rcases he.refusal with ⟨r', rfl⟩ | ⟨hmark, hword⟩
    · rw [refuse_of_refused (s := s.taken) hr]; exact ⟨hr, rfl⟩
    · exact ⟨hmark.trans hr, hword⟩
  · rw [refuse_of_refused (s := s.taken) hr]; exact ⟨hr, rfl⟩

/-! ### Reset -/

/-- Settles O10: every entry of the three tables is a repetition of one value. -/
theorem resetKnowsNothing : Obligations.ResetKnowsNothing := by
  simp [Obligations.ResetKnowsNothing, State.reset, State.powerOn, State.dirAt, State.outAt, State.lit, State.srAt,
    Stages.unknown]

end Sys2Proof.Machine

/-! SUPPORT. Configuring a line (R36, R37) and driving a register's own lines (R39, R40), as whole-state updates and stage by stage. -/

namespace Sys2Proof.Machine

variable (s : State)

/-! ### Configuring -/

theorem exec_cfgo_of_val {l : BitVec 8} {d : DisplayLine} (h : l.toNat = d.val) :
    exec (.cfgo l) s = .next (configureAsOutput d s) := by
  simp [exec, execCfgo, displayOperand_of_val h]

theorem exec_cfgi_of_val {l : BitVec 8} {b : ButtonLine} (h : l.toNat = 27 + b.val) :
    exec (.cfgi l) s = .next (configureAsInput b s) := by
  simp [exec, execCfgi, buttonOperand_of_val h]

/-- Settles O12: the two cases of `configureAsOutput`. -/
theorem cfgoMakesLineOutput : Obligations.CfgoMakesLineOutput := by
  intro s l d h
  rw [exec_cfgo_of_val s h]
  exact ⟨fun hd => by rw [configureAsOutput_configured s d hd], fun hd => by rw [configureAsOutput_new s d hd]; rfl⟩

/-- Settles O13: the two cases of `configureAsInput`. -/
theorem cfgiMakesLineInput : Obligations.CfgiMakesLineInput := by
  intro s l b h
  rw [exec_cfgi_of_val s h]
  exact ⟨fun hd => by rw [configureAsInput_configured s b hd], fun hd => by rw [configureAsInput_new s b hd]; rfl⟩

/-! ### Driving the lines of a register -/

/-- Settles O15: the two rules of the master-reset line. -/
theorem masterResetClearsRegister : Obligations.MasterResetClearsRegister := by
  intro s ch
  rw [setLine_resetLine_low, setLine_resetLine_high]
  exact ⟨rfl, rfl⟩

/-- Joined with a definite 0, a level is known exactly when it is 0 (R35). -/
theorem join_false (a : Level) : join (some false) a = if a = some false then some false else none := by
  simp [join, eq_comm]

/-- A stage after the clock line is driven high (R40). -/
theorem lit_setLine_clockLine_high (ch : Channel) (k : Stage) : (setLine (clockLine ch) true s).lit ch k =
    (clockedStages (s.outAt (clockLine ch)) (s.outAt (resetLine ch)) (s.outAt (dataLine ch)) (s.srAt ch))[k.val] := by
  simp [State.lit, setLine_clockLine_high]

/-- Settles O16: the arms of `clockedStages` and `loadedStages`, read at one stage. -/
theorem risingClockEdgeShifts : Obligations.RisingClockEdgeShifts := by
  intro s ch k shifted t
  have hshifted : (shiftIn (s.outAt (dataLine ch)) (s.srAt ch))[k.val] = shifted := by
    simp [shifted, getElem_shiftIn, State.lit]
  refine ⟨fun hc hr => ?_, fun hc hr => ?_, fun hc hr => ?_, fun hc => ?_, fun hc v => ?_⟩
  · simp only [t, lit_setLine_clockLine_high, hc, hr, clockedStages, loadedStages, hshifted]
  · simp only [t, lit_setLine_clockLine_high, hc, hr, clockedStages, loadedStages]
    rfl
  · simp only [t, lit_setLine_clockLine_high, hc, hr, clockedStages, loadedStages, getElem_joinStages, hshifted,
      getElem_clearedStages, join_false]
  · simp only [t, lit_setLine_clockLine_high, hc, clockedStages]
    rfl
  · simp only [t, lit_setLine_clockLine_high, hc, clockedStages, getElem_joinStages, join_eq_some, outAt_setOut, if_pos,
      dataLine_ne_clockLine, resetLine_ne_clockLine, if_false, srAt_setOut]
    rfl

end Sys2Proof.Machine

/-! SUPPORT. What a write and an initialisation leave in the register of their channel, stage by stage (R40, R80, R81, R84), their
time, and the segments a register lights (R14). -/

namespace Sys2Proof.Machine

variable (s : State) (ch : Channel)

/-! ### Time -/

theorem sendBits_time (code : Code) (n : Nat) : (sendBits ch code n s).time = s.time + n * (2 * s.cfg.tClk) := by
  induction n generalizing s with
  | zero => simp [sendBits]
  | succ n ih => simp [sendBits, ih]; ring

theorem writeSegment_time (code : Code) : (writeSegment ch code s).time = s.time + 16 * s.cfg.tClk := by
  rw [writeSegment, sendBits_time]; ring

theorem initChannel_time : (initChannel ch s).time = s.time + (s.cfg.tMr + 16 * s.cfg.tClk) := by
  simp [initChannel, writeSegment_time, setLine_resetLine_low, setLine_resetLine_high]; ring

/-! ### The register -/

/-- A register after bits `n - 1`, ..., 0 of a code are clocked in at definite edges, under one master-reset level (R40, R80). -/
def loadedBits (rst : Level) (code : Code) : Nat → Stages → Stages
  | 0, r => r
  | n + 1, r => loadedBits rst code n (loadedStages rst (some (code.getLsbD n)) r)

theorem sendBit_srAt_same (b : Bit) : (sendBit ch b s).srAt ch =
    clockedStages (s.outAt (clockLine ch)) (s.outAt (resetLine ch)) (some b) (s.srAt ch) := by
  simp [sendBit_srAt]

/-- From a low clock every edge of a write is definite. -/
theorem sendBits_srAt {s : State} (hc : s.outAt (clockLine ch) = some false) (code : Code) (n : Nat) :
    (sendBits ch code n s).srAt ch = loadedBits (s.outAt (resetLine ch)) code n (s.srAt ch) := by
  induction n generalizing s with
  | zero => rfl
  | succ n ih =>
    rw [sendBits, ih (by simp [sendBit_outAt]), sendBit_srAt_same, hc]
    simp [sendBit_outAt, loadedBits, clockedStages]

/-- Only the first edge of a write depends on the clock level at entry. -/
theorem writeSegment_srAt (code : Code) : (writeSegment ch code s).srAt ch =
    loadedBits (s.outAt (resetLine ch)) code 7
      (clockedStages (s.outAt (clockLine ch)) (s.outAt (resetLine ch)) (some (code.getLsbD 7)) (s.srAt ch)) := by
  have hc : (sendBit ch (code.getLsbD 7) s).outAt (clockLine ch) = some false := by simp [sendBit_outAt]
  refine (sendBits_srAt ch hc code 7).trans ?_
  rw [sendBit_srAt_same]
  simp [sendBit_outAt]

/-- With the reset released, bit `k` of the code ends in stage `k` and the old content moves up. -/
theorem getElem_loadedBits_released (code : Code) (n : Nat) (r : Stages) (k : Nat) (hk : k < 8) :
    (loadedBits (some true) code n r)[k] = if k < n then some (code.getLsbD k) else r[k - n] := by
  induction n generalizing r with
  | zero => simp [loadedBits]
  | succ n ih =>
    rw [loadedBits, ih, loadedStages, getElem_shiftIn]
    rcases lt_trichotomy k n with h | rfl | h
    · simp [h, Nat.lt_succ_of_lt h]
    · simp
    · have hsucc : ¬ k < n + 1 := by omega
      have hsub : k - n ≠ 0 := by omega
      rw [if_neg h.not_gt, if_neg hsub, if_neg hsucc]; rfl

theorem join_false_join (a : Level) : join (some false) (join (some false) a) = join (some false) a := by
  simp only [join_false]; split <;> simp_all

/-- With the reset X the register is the joined one of the cleared and the written content (R40). -/
theorem loadedBits_unknown (code : Code) (n : Nat) (r : Stages) :
    loadedBits none code (n + 1) r = joinStages clearedStages (loadedBits (some true) code (n + 1) r) := by
  induction n generalizing r with
  | zero => rfl
  | succ n ih =>
    rw [loadedBits, ih, loadedStages, loadedBits.eq_def _ _ (n + 1 + 1)]
    ext k hk : 1
    simp only [getElem_joinStages, getElem_clearedStages, getElem_loadedBits_released, loadedStages]
    split
    · rfl
    · exact join_false_join _

theorem loadedBits_blank_cleared (n : Nat) : loadedBits (some true) Config.blank n clearedStages = clearedStages := by
  induction n with
  | zero => rfl
  | succ n ih => simpa [loadedBits, loadedStages, Config.blank] using ih

/-- The reset pulse clears the register and the eight zeros keep it so, whatever the clock level was (R81, R84). -/
theorem initChannel_srAt : (initChannel ch s).srAt ch = clearedStages := by
  have hedge : ∀ old, clockedStages old (some true) (some false) clearedStages = clearedStages := by
    rintro (_ | _ | _) <;> simp [clockedStages, loadedStages]
  simpa [initChannel, writeSegment_srAt, setLine_resetLine_low, setLine_resetLine_high, Config.blank, hedge]
    using loadedBits_blank_cleared 7

/-- A write on a channel whose clock is low and whose reset is released puts the code in the register (R84). -/
theorem writeSegment_srAt_ready {s : State} {ch : Channel} (hc : s.outAt (clockLine ch) = some false)
    (hr : s.outAt (resetLine ch) = some true) (code : Code) : (writeSegment ch code s).srAt ch = codeStages code := by
  rw [writeSegment, sendBits_srAt ch hc, hr]
  ext k hk : 1
  simp [getElem_loadedBits_released, hk]

/-! ### The statements -/

/-- Settles O19: the events, time, levels and frame of `writeSegment`. -/
theorem wsegSendsFortyEvents : Obligations.WsegSendsFortyEvents := by
  intro s c ch code h hd hc
  refine ⟨_, exec_wseg_of_outputs s code h hd hc, writeSegment_trace s ch code, rfl, writeSegment_time s ch code, ?_, ?_, ?_,
    writeSegment_frame s ch code⟩ <;> simp [writeSegment_outAt]

/-- Settles O20: eight definite edges, each a shift. -/
theorem wsegLeavesCodeInRegister : Obligations.WsegLeavesCodeInRegister := by
  intro s c ch code h hd hk hc hr
  refine ⟨_, exec_wseg_of_outputs s code h hd hk, writeSegment_srAt_ready hc hr code, ?_, ?_, ?_⟩ <;>
    simp [writeSegment_outAt, hr]

/-- Settles O22: the pulse clears the register, and eight zeros keep it cleared. -/
theorem initClearsChannel : Obligations.InitClearsChannel := by
  intro s c ch h hd hc hr
  refine ⟨_, exec_init_of_outputs s h hd hc hr, (initChannel_srAt s ch).trans codeStages_blank.symm, ?_, ?_, ?_,
    initChannel_trace s ch, rfl, initChannel_time s ch, initChannel_frame s ch⟩ <;> simp [initChannel_outAt]

/-- Settles O24: the first edge is none, so seven bits enter and the old stage 0 ends in stage 7. -/
theorem clockHighAtEntryLosesFirstBit : Obligations.ClockHighAtEntryLosesFirstBit := by
  intro s c ch code h hd hk hc hr
  have hstage : ∀ k : Stage, (writeSegment ch code s).lit ch k =
      if k.val < 7 then some (code.getLsbD k.val) else (s.srAt ch)[k.val - 7] := by
    intro k
    rw [State.lit, writeSegment_srAt, hc, hr, getElem_loadedBits_released]
    rfl
  exact ⟨_, exec_wseg_of_outputs s code h hd hk, hstage 7, fun k hk7 => by rw [hstage, if_pos hk7]⟩

/-- Settles O25: a definite first edge joins all eight bits with 0, an uncertain one only the seven after it. -/
theorem uninitialisedWriteStaysUnknown : Obligations.UninitialisedWriteStaysUnknown := by
  intro s c ch code h hd hk hr
  refine ⟨_, exec_wseg_of_outputs s code h hd hk, fun k hcase => ?_⟩
  have hstage : ∀ n r, k.val < n + 1 →
      (loadedBits none code (n + 1) r)[k.val] = if code.getLsbD k.val then none else some false := by
    intro n r hn
    rw [loadedBits_unknown, getElem_joinStages, getElem_clearedStages, getElem_loadedBits_released, if_pos hn]
    cases code.getLsbD k.val <;> rfl
  rw [State.lit]
  rcases hcase with ⟨hk7, -⟩ | hc
  · rw [writeSegment_srAt, hr, hstage 6 _ hk7]
  · rw [writeSegment, sendBits_srAt ch hc, hr, hstage 7 _ k.isLt]

/-- Settles O26: each stage of the register is a known bit of the code. -/
theorem litSegmentsAreTheCodesOnes : Obligations.LitSegmentsAreTheCodesOnes := by
  intro s ch code seg h
  have hlit : ∀ k : Stage, s.lit ch k = some (code.getLsbD k.val) := fun k => by
    rw [State.lit, h, getElem_codeStages]
  simp [State.litSegments, List.mem_filterMap, hlit]

end Sys2Proof.Machine

/-! SUPPORT. The Input Sampler (R42, R90 to R93): a press test by its first sample, a release wait by the number of asserted polls,
their refusals, and who appends `Sample` events (R174). -/

namespace Sys2Proof.Machine

variable (s : State) (b : ButtonLine)

/-! ### Operands and lines -/

theorem exec_pressed_of_input {s : State} {l : BitVec 8} {b : ButtonLine} (h : l.toNat = 27 + b.val)
    (hi : s.dirAt (buttonId b) = .input) : exec (.pressed l) s = .next (isPressed b s) := by
  simp [exec, execPressed, buttonOperand_of_val h, isInput_iff, hi]

theorem exec_awrel_of_input {s : State} {l : BitVec 8} {b : ButtonLine} (n : BitVec 16) (h : l.toNat = 27 + b.val)
    (hi : s.dirAt (buttonId b) = .input) : exec (.awrel l n) s = .next (pollRelease b n.toNat s) := by
  simp [exec, execAwrel, buttonOperand_of_val h, isInput_iff, hi]

theorem exec_pressed_of_not_input {s : State} {l : BitVec 8} {b : ButtonLine} (h : l.toNat = 27 + b.val)
    (hi : s.dirAt (buttonId b) ≠ .input) : exec (.pressed l) s = .next (refuse .lineNotInput (encode (.pressed l)) s) := by
  simp [exec, execPressed, buttonOperand_of_val h, isInput_iff, hi]

theorem exec_awrel_of_not_input {s : State} {l : BitVec 8} {b : ButtonLine} (n : BitVec 16) (h : l.toNat = 27 + b.val)
    (hi : s.dirAt (buttonId b) ≠ .input) : exec (.awrel l n) s = .next (refuse .lineNotInput (encode (.awrel l n)) s) := by
  simp [exec, execAwrel, buttonOperand_of_val h, isInput_iff, hi]

theorem readLine_frame : SamplerFrame s (readLine b s) := by constructor <;> simp

/-- Settles O18: the two samples that differ are the first two of a script. -/
theorem sampleHasNoSideEffect : Obligations.SampleHasNoSideEffect := by
  refine ⟨fun s b => ⟨_, rfl, readLine_trace s b, readLine_res s b, readLine_time s b, readLine_frame s b⟩, ?_,
    fun s b l t h hi => ⟨exec_pressed_of_not_input h hi, exec_awrel_of_not_input t h hi⟩⟩
  exact ⟨State.powerOn Config.default (.perSample [true, false]), 0, by decide⟩

/-! ### The press test -/

theorem readsAsserted_iff : s.readsAsserted b = true ↔ s.nextSample b = s.cfg.assertLevel[b.val] := by
  simp [State.readsAsserted, asserted]

theorem readsAsserted_eq_decide : s.readsAsserted b = decide (s.nextSample b = s.cfg.assertLevel[b.val]) := by
  rw [Bool.eq_iff_iff, readsAsserted_iff, decide_eq_true_iff]

theorem isPressed_of_asserted {s : State} {b : ButtonLine} (h : s.nextSample b = s.cfg.assertLevel[b.val]) :
    isPressed b s = resample b (delay s.cfg.tDebounce (readLine b s)) := by
  rw [isPressed, if_pos ((readsAsserted_iff s b).2 h)]

theorem isPressed_of_released {s : State} {b : ButtonLine} (h : s.nextSample b ≠ s.cfg.assertLevel[b.val]) :
    isPressed b s = setRes false (readLine b s) := by
  rw [isPressed, if_neg (by rwa [readsAsserted_iff])]

/-- The result of an asserted first sample is whether the second one, a debounce delay later, is asserted too. -/
theorem isPressed_res_of_asserted {s : State} {b : ButtonLine} (h : s.nextSample b = s.cfg.assertLevel[b.val]) :
    (isPressed b s).res =
      some (decide ((delay s.cfg.tDebounce (readLine b s)).nextSample b = s.cfg.assertLevel[b.val])) := by
  rw [isPressed_of_asserted h, resample, setRes_res, readsAsserted_eq_decide]
  simp

theorem decode_of_opcField_five {w : Word} (h : opcField w = 5) :
    decode w = whenReservedZero w (argField w == 0) (.pressed (idxField w)) := by
  simp [decode, h]

/-- Settles O31: by the first sample; the refusals by operand class and by the reserved bits. -/
theorem pressedTakesTwoSamples : Obligations.PressedTakesTwoSamples := by
  refine ⟨fun l => ?_, fun s l b h hi => ⟨fun h1 => ?_, fun h1 => ?_⟩, fun s l b h hi => exec_pressed_of_not_input h hi,
    fun s l => ⟨fun hl => ?_, fun hl => ?_⟩, fun w hopc hfields => ?_⟩
  · simpa [encode] using commandWord_toNat 5 l 0
  · exact ⟨_, exec_pressed_of_input h hi, by simp [isPressed_of_released h1], by simp [isPressed_of_released h1],
      by simp [isPressed_of_released h1], isPressed_frame s b⟩
  · exact ⟨_, exec_pressed_of_input h hi, isPressed_res_of_asserted h1, by simp [isPressed_of_asserted h1, resample],
      by simp [isPressed_of_asserted h1, resample], isPressed_frame s b⟩
  · exact exec_of_operandReason s (if_pos hl)
  · exact exec_of_operandReason s ((if_neg (by omega)).trans (if_pos hl))
  · rw [decode_of_opcField_five hopc]
    exact whenReservedZero_error _ (hfields.imp_left beq_false_of_ne)

theorem nextSample_of_timed {s : State} {env : List EnvChange} (h : s.oracle = .timed env) :
    s.nextSample b = envLevel env (buttonId b) s.time := by
  simp [State.nextSample, h]

theorem sampleTaken_of_timed {s : State} {env : List EnvChange} (h : s.oracle = .timed env) : s.sampleTaken = s := by
  simp [State.sampleTaken, h]

/-- Settles O35: under `ENV` the two samples are its values at two instants. -/
theorem pressedLooksAtTwoInstants : Obligations.PressedLooksAtTwoInstants := by
  intro s l b env h hi henv
  have hfirst := nextSample_of_timed b henv
  have hsecond : (delay s.cfg.tDebounce (readLine b s)).nextSample b =
      envLevel env (buttonId b) (s.time + s.cfg.tDebounce) := by
    rw [nextSample_of_timed (env := env) b (by simp [sampleTaken_of_timed henv, henv])]
    simp
  refine ⟨_, exec_pressed_of_input h hi, ?_⟩
  rw [← hfirst, ← hsecond]
  by_cases h1 : s.nextSample b = s.cfg.assertLevel[b.val]
  · simp [isPressed_res_of_asserted h1, h1]
  · simp [isPressed_of_released h1, h1]

/-! ### The release wait -/

/-- The events of one asserted poll (R91). -/
def pollEvents (cfg : Config) (b : ButtonLine) : List Event :=
  [.sample (buttonId b) cfg.assertLevel[b.val], .delay cfg.tPoll]

theorem pollRelease_of_asserted {s : State} {b : ButtonLine} (h : s.nextSample b = s.cfg.assertLevel[b.val]) (n : Nat) :
    pollRelease b (n + 1) s = pollRelease b n (delay s.cfg.tPoll (readLine b s)) := by
  rw [pollRelease, if_pos ((readsAsserted_iff s b).2 h)]

theorem pollRelease_of_released {s : State} {b : ButtonLine} (h : s.nextSample b ≠ s.cfg.assertLevel[b.val]) (n : Nat) :
    pollRelease b (n + 1) s = readLine b s := by
  rw [pollRelease, if_neg (by rwa [readsAsserted_iff])]

/-- A wait of at most `n` polls makes `j` asserted ones, `j` as the environment says, then a released one unless `j = n` (R91). -/
theorem pollRelease_polls (n : Nat) : ∃ j ≤ n,
    (∀ k < j, s.waitSample b k = s.cfg.assertLevel[b.val]) ∧
    (j < n → s.waitSample b j ≠ s.cfg.assertLevel[b.val]) ∧
    (pollRelease b n s).trace = s.trace ++ (List.replicate j (pollEvents s.cfg b)).flatten ++
      (if j < n then [.sample (buttonId b) !s.cfg.assertLevel[b.val]] else []) ∧
    (pollRelease b n s).time = s.time + j * s.cfg.tPoll := by
  induction n generalizing s with
  | zero => exact ⟨0, le_rfl, by simp, by simp, by simp [pollRelease], by simp [pollRelease]⟩
  | succ n ih =>
    by_cases h : s.nextSample b = s.cfg.assertLevel[b.val]
    · obtain ⟨j, hj, hasserted, hreleased, htrace, htime⟩ := ih (delay s.cfg.tPoll (readLine b s))
      simp only [waitSample_succ, delay_cfg, readLine_cfg] at hasserted hreleased htrace htime
      refine ⟨j + 1, by omega, ?_, fun hjn => hreleased (by omega), ?_, ?_⟩
      · rintro (_ | k) hk
        · rw [waitSample_zero, h]
        · exact hasserted k (by omega)
      · rw [pollRelease_of_asserted h, htrace]
        simp [List.replicate_succ, pollEvents, h]
      · rw [pollRelease_of_asserted h, htime]
        simp; ring
    · refine ⟨0, by omega, by simp, fun _ => by rwa [waitSample_zero], ?_, ?_⟩
      · simp [pollRelease_of_released h, Bool.eq_not_of_ne h]
      · simp [pollRelease_of_released h]

/-- Settles O32: by induction on the polls left. -/
theorem awrelPollsUntilReleaseOrTimeout : Obligations.AwrelPollsUntilReleaseOrTimeout := by
  intro s l t b h hi
  obtain ⟨j, hj, hasserted, hreleased, htrace, htime⟩ := pollRelease_polls s b t.toNat
  exact ⟨_, j, exec_awrel_of_input t h hi, hj, hasserted, hreleased, htrace, htime, pollRelease_res s b _,
    pollRelease_frame s b _⟩

theorem sampleCount_append (xs ys : List Event) : sampleCount (xs ++ ys) = sampleCount xs + sampleCount ys := by
  simp [sampleCount]

theorem sampleCount_polls (cfg : Config) (j : Nat) :
    sampleCount (List.replicate j (pollEvents cfg b)).flatten = j := by
  induction j with
  | zero => rfl
  | succ j ih => rw [List.replicate_succ, List.flatten_cons, sampleCount_append, ih, Nat.add_comm]; rfl

/-- The samples of a script are consumed one by one: `j` asserted ones lead to the rest of the wait. -/
theorem pollRelease_script {s : State} {b : ButtonLine} {j n : Nat} {rest : List Bit} (hj : j ≤ n)
    (h : s.oracle = .perSample (List.replicate j s.cfg.assertLevel[b.val] ++ rest)) :
    ∃ u, pollRelease b n s = pollRelease b (n - j) u ∧ u.oracle = .perSample rest ∧ u.cfg = s.cfg ∧
      u.time = s.time + j * s.cfg.tPoll ∧ u.trace = s.trace ++ (List.replicate j (pollEvents s.cfg b)).flatten := by
  induction j generalizing s n with
  | zero => exact ⟨s, rfl, by simpa using h, rfl, by simp, by simp⟩
  | succ j ih =>
    obtain ⟨m, rfl⟩ : ∃ m, n = m + 1 := ⟨n - 1, by omega⟩
    rw [List.replicate_succ, List.cons_append] at h
    have hasserted : s.nextSample b = s.cfg.assertLevel[b.val] := by simp [State.nextSample, h]
    obtain ⟨u, hu, horacle, hcfg, htime, htrace⟩ := ih (s := delay s.cfg.tPoll (readLine b s)) (n := m) (by omega)
      (by simp [State.sampleTaken, h])
    refine ⟨u, ?_, horacle, by simpa using hcfg, ?_, ?_⟩
    · rw [pollRelease_of_asserted hasserted, hu, Nat.add_sub_add_right]
    · rw [htime]; simp; ring
    · rw [htrace]; simp [List.replicate_succ, pollEvents, hasserted]

/-- Settles O33: after the asserted samples of the script the wait meets a release, or has no polls left. -/
theorem awrelFollowsTheScript : Obligations.AwrelFollowsTheScript := by
  intro s l t b rest h hi
  refine ⟨fun j hj hscript => ?_, fun hscript => ?_⟩
  · obtain ⟨u, hu, horacle, hcfg, htime, htrace⟩ := pollRelease_script hj.le hscript
    obtain ⟨m, hm⟩ : ∃ m, t.toNat - j = m + 1 := ⟨t.toNat - j - 1, by omega⟩
    have hreleased : u.nextSample b ≠ u.cfg.assertLevel[b.val] := by simp [State.nextSample, horacle, hcfg]
    have hend : pollRelease b t.toNat s = readLine b u := by rw [hu, hm, pollRelease_of_released hreleased]
    refine ⟨_, exec_awrel_of_input t h hi, ?_, ?_, ?_⟩
    · simp [hend, State.sampleTaken, horacle]
    · simp [hend, htime]
    · rw [hend, newEvents_of_trace (by rw [readLine_trace, htrace, List.append_assoc]), sampleCount_append,
        sampleCount_polls]
      rfl
  · obtain ⟨u, hu, horacle, hcfg, htime, htrace⟩ := pollRelease_script le_rfl hscript
    have hend : pollRelease b t.toNat s = u := by rw [hu, Nat.sub_self]; rfl
    refine ⟨_, exec_awrel_of_input t h hi, ?_, ?_, ?_⟩
    · rw [hend, horacle]
    · rw [hend, htime]
    · rw [hend, newEvents_of_trace htrace, sampleCount_polls]

theorem newEvents_of_trace_eq {s t : State} (h : t.trace = s.trace) : s.newEvents t = [] :=
  newEvents_of_trace (by rw [h, List.append_nil])

/-- Settles O34: a refused wait takes no sample and no time, another one makes at most `t` polls. -/
theorem awrelIsBounded : Obligations.AwrelIsBounded := by
  intro s l t
  obtain ⟨u, hu, -⟩ := exec_cases s (.awrel l t)
  refine ⟨u, hu, ?_⟩
  cases effect_of_exec hu with
  | refused _ r => simp [newEvents_of_trace_eq, sampleCount]
  | awrel b _ h hi =>
    obtain ⟨j, hj, -, -, htrace, htime⟩ := pollRelease_polls s b t.toNat
    rw [List.append_assoc] at htrace
    rw [newEvents_of_trace htrace, htime, sampleCount_append, sampleCount_polls]
    refine ⟨?_, Nat.add_le_add_left (Nat.mul_le_mul_right _ hj) _⟩
    split
    · simp [sampleCount]; omega
    · simpa [sampleCount] using hj

/-! ### Who samples -/

theorem configureAsOutput_trace (d : DisplayLine) : (configureAsOutput d s).trace = s.trace ∨
    (configureAsOutput d s).trace = s.trace ++ [.cfg (displayId d) .output] := by
  unfold configureAsOutput; split <;> simp

theorem configureAsInput_trace : (configureAsInput b s).trace = s.trace ∨
    (configureAsInput b s).trace = s.trace ++ [.cfg (buttonId b) .input] := by
  unfold configureAsInput; split <;> simp

theorem sample_notMem_writeEvents (cfg : Config) (ch : Channel) (code : Code) (l : Line) (v : Bit) :
    .sample l v ∉ writeEvents cfg ch code := by
  simp [writeEvents]

theorem sample_mem_newEvents_isPressed {l : Line} {v : Bit} (h : .sample l v ∈ s.newEvents (isPressed b s)) :
    l = buttonId b := by
  by_cases h1 : s.nextSample b = s.cfg.assertLevel[b.val]
  · rw [newEvents_of_trace (t := isPressed b s) (by simp [isPressed_of_asserted h1, resample]; rfl)] at h
    simp at h; tauto
  · rw [newEvents_of_trace (t := isPressed b s) (by simp [isPressed_of_released h1]; rfl)] at h
    simp at h; tauto

theorem sample_mem_newEvents_pollRelease {n : Nat} {l : Line} {v : Bit}
    (h : .sample l v ∈ s.newEvents (pollRelease b n s)) : l = buttonId b := by
  obtain ⟨j, -, -, -, htrace, -⟩ := pollRelease_polls s b n
  rw [List.append_assoc] at htrace
  rw [newEvents_of_trace htrace] at h
  simp [pollEvents] at h
  grind

/-- Settles O36: the new events of each operation. -/
theorem onlyTheSamplerSamples : Obligations.OnlyTheSamplerSamples := by
  intro i s t l v h hmem
  cases effect_of_exec h with
  | refused _ r => simp [newEvents_of_trace_eq] at hmem
  | cfgo d hl => rcases configureAsOutput_trace s d with he | he <;> simp [State.newEvents, he] at hmem
  | cfgi b hl => rcases configureAsInput_trace s b with he | he <;> simp [State.newEvents, he] at hmem
  | init ch hc =>
    rw [newEvents_of_trace (initChannel_trace s ch)] at hmem
    simp [initEvents, sample_notMem_writeEvents] at hmem
  | wseg ch code hc =>
    rw [newEvents_of_trace (writeSegment_trace s ch code)] at hmem
    exact (sample_notMem_writeEvents _ _ _ _ _ hmem).elim
  | pressed b hl hi =>
    obtain rfl := sample_mem_newEvents_isPressed s b hmem
    exact ⟨_, hl, .inl rfl⟩
  | awrel b n hl hi =>
    obtain rfl := sample_mem_newEvents_pollRelease s b hmem
    exact ⟨_, hl, .inr ⟨n, rfl⟩⟩
  | delay n => simp [State.newEvents] at hmem

end Sys2Proof.Machine

/-! SUPPORT. Invariants of the block, each kept by every effect and therefore by every step: a ready channel (R84), the classes and
idle levels of the lines (R11, R12, R170, R171), and `TRACE` as a record of lines, registers and time (R17). -/

namespace Sys2Proof.Machine

variable (s : State) (ch : Channel)

/-! ### Invariants of the block -/

/-- The same directions, levels, registers, time and trace: whatever differs is no part of what `TRACE` records. -/
structure SameBlock (s t : State) : Prop where
  dir : t.dir = s.dir
  out : t.out = s.out
  sr : t.sr = s.sr
  time : t.time = s.time
  trace : t.trace = s.trace

theorem sameBlock_refuse (r : Reason) (w : Word) : SameBlock s (refuse r w s) := by constructor <;> simp

theorem sameBlock_taken : SameBlock s s.taken := by constructor <;> rfl

theorem sameBlock_betweenCommands : SameBlock s (betweenCommands s) := by constructor <;> simp

/-- What depends on the block alone and is kept by every effect is kept by every step. -/
theorem step_keeps {P : State → Prop} (congr : ∀ {s t}, SameBlock s t → P s → P t)
    (effect : ∀ {i s t}, Effect s i t → P s → P t) {s t : State} (hp : P s) (h : step s = .next t) : P t := by
  rcases step_inversion h with ⟨-, rfl⟩ | ⟨w, -, ⟨i, -, he⟩ | ⟨r, -, rfl⟩⟩
  · exact congr (sameBlock_betweenCommands s) hp
  · exact effect he (congr (sameBlock_taken s) hp)
  · exact congr (sameBlock_refuse _ r w) (congr (sameBlock_taken s) hp)

/-! ### A ready channel -/

/-- A channel stays ready where outputs stay outputs and its two idle levels stand. -/
theorem ChannelReady.of_lines {s t : State} {ch : Channel} (h : ChannelReady s ch)
    (hdir : ∀ l : DisplayLine, s.dirAt (displayId l) = .output → t.dirAt (displayId l) = .output)
    (hclock : t.outAt (clockLine ch) = some false) (hreset : t.outAt (resetLine ch) = some true) : ChannelReady t ch where
  data := by simpa [isOutput_iff] using hdir _ ((isOutput_iff s _).1 h.data)
  clock := by simpa [isOutput_iff] using hdir _ ((isOutput_iff s _).1 h.clock)
  reset := by simpa [isOutput_iff] using hdir _ ((isOutput_iff s _).1 h.reset)
  clockLow := hclock
  resetHigh := hreset

theorem ChannelReady.configureAsOutput {s : State} {ch : Channel} (h : ChannelReady s ch) (d : DisplayLine) :
    ChannelReady (configureAsOutput d s) ch := by
  have hout : ∀ l, s.isOutput l = true → (Machine.configureAsOutput d s).outAt l = s.outAt l := by
    intro l hl
    rw [configureAsOutput_outAt, if_neg]
    rintro ⟨hd, rfl⟩
    exact hd ((isOutput_iff s _).1 hl)
  refine h.of_lines (fun l hl => ?_) ((hout _ h.clock).trans h.clockLow) ((hout _ h.reset).trans h.resetHigh)
  rw [configureAsOutput_dirAt]; split
  · rfl
  · exact hl

theorem ChannelReady.configureAsInput {s : State} {ch : Channel} (h : ChannelReady s ch) (b : ButtonLine) :
    ChannelReady (configureAsInput b s) ch :=
  h.of_lines (fun l hl => by simpa [configureAsInput_dirAt] using hl) (by rw [configureAsInput_outAt, h.clockLow])
    (by rw [configureAsInput_outAt, h.resetHigh])

theorem ChannelReady.writeSegment {s : State} {ch : Channel} (h : ChannelReady s ch) (c : Channel) (code : Code) :
    ChannelReady (writeSegment c code s) ch := by
  refine h.of_lines (fun l hl => ?_) ?_ ?_
  · simpa [State.dirAt, (writeSegment_frame s c code).dir] using hl
  · simp [writeSegment_outAt, h.clockLow]
  · simp [writeSegment_outAt, h.resetHigh]

theorem ChannelReady.initChannel {s : State} {ch : Channel} (h : ChannelReady s ch) (c : Channel) :
    ChannelReady (initChannel c s) ch := by
  refine h.of_lines (fun l hl => ?_) ?_ ?_
  · simpa [State.dirAt, (initChannel_frame s c).dir] using hl
  · simp [initChannel_outAt, h.clockLow]
  · simp [initChannel_outAt, h.resetHigh]

theorem ChannelReady.effect {s t : State} {i : Instr} {ch : Channel} (he : Effect s i t) (h : ChannelReady s ch) :
    ChannelReady t ch := by
  cases he with
  | refused _ r => exact h.congr (refuse_dir ..) (refuse_out ..)
  | cfgo d => exact h.configureAsOutput d
  | cfgi b => exact h.configureAsInput b
  | init c => exact h.initChannel c
  | wseg c code => exact h.writeSegment c code
  | pressed b => exact h.congr (isPressed_frame s b).dir (isPressed_frame s b).out
  | awrel b n => exact h.congr (pollRelease_frame s b _).dir (pollRelease_frame s b _).out
  | delay n => exact h.congr (delay_dir ..) (delay_out ..)

/-- Settles O27: no effect turns an output back, and each write leaves its channel idle. -/
theorem readyChannelStaysReady : Obligations.ReadyChannelStaysReady :=
  fun _ _ _ h hs => step_keeps (fun same h => h.congr same.dir same.out) ChannelReady.effect h hs

/-! ### The lines -/

theorem LinesInv.congr {s t : State} (hdir : t.dir = s.dir) (hout : t.out = s.out) (h : LinesInv s) : LinesInv t := by
  have hd : ∀ l, t.dirAt l = s.dirAt l := fun l => by simp only [State.dirAt, hdir]
  have ho : ∀ l, t.outAt l = s.outAt l := fun l => by simp only [State.outAt, hout]
  exact ⟨by simpa only [hd] using h.display, by simpa only [hd] using h.button, by simpa only [hd, ho] using h.undriven,
    by simpa only [ho] using h.clockIdle, by simpa only [ho] using h.resetIdle⟩

theorem LinesInv.configureAsOutput {s : State} (h : LinesInv s) (d : DisplayLine) : LinesInv (configureAsOutput d s) := by
  have hout : ∀ l, (Machine.configureAsOutput d s).outAt l = none ∨ (Machine.configureAsOutput d s).outAt l = s.outAt l := by
    intro l
    rw [configureAsOutput_outAt]; split <;> simp
  refine ⟨fun l => ?_, fun b => ?_, fun l hl => ?_, fun ch => ?_, fun ch => ?_⟩
  · rw [configureAsOutput_dirAt]; split
    · decide
    · exact h.display l
  · rw [configureAsOutput_dirAt, if_neg (buttonId_ne_displayId b d)]; exact h.button b
  · rw [configureAsOutput_dirAt] at hl
    split at hl
    · exact absurd rfl hl
    · exact (hout l).elim id fun ho => ho.trans (h.undriven l hl)
  · rcases hout (clockLine ch) with ho | ho <;> simp [ho, h.clockIdle ch]
  · rcases hout (resetLine ch) with ho | ho <;> simp [ho, h.resetIdle ch]

theorem LinesInv.configureAsInput {s : State} (h : LinesInv s) (b : ButtonLine) : LinesInv (configureAsInput b s) := by
  refine ⟨fun l => ?_, fun c => ?_, fun l hl => ?_, fun ch => ?_, fun ch => ?_⟩
  · rw [configureAsInput_dirAt, if_neg (displayId_ne_buttonId l b)]; exact h.display l
  · rw [configureAsInput_dirAt]; split
    · decide
    · exact h.button c
  · rw [configureAsInput_dirAt, if_neg (displayId_ne_buttonId l b)] at hl
    rw [configureAsInput_outAt, h.undriven l hl]
  · rw [configureAsInput_outAt]; exact h.clockIdle ch
  · rw [configureAsInput_outAt]; exact h.resetIdle ch

theorem LinesInv.writeSegment {s : State} {ch : Channel} (h : LinesInv s) (hd : s.isOutput (dataLine ch) = true)
    (hc : s.isOutput (clockLine ch) = true) (code : Code) : LinesInv (writeSegment ch code s) := by
  rw [isOutput_iff] at hd hc
  have hdir : ∀ l, (Machine.writeSegment ch code s).dirAt l = s.dirAt l := fun l => by
    simp only [State.dirAt, (writeSegment_frame s ch code).dir]
  refine ⟨fun l => hdir _ ▸ h.display l, fun b => hdir _ ▸ h.button b, fun l hl => ?_, fun c => ?_, fun c => ?_⟩
  · rw [hdir] at hl
    rw [writeSegment_outAt, if_neg (by rintro rfl; exact hl hc), if_neg (by rintro rfl; exact hl hd), h.undriven l hl]
  · rw [writeSegment_outAt]; split
    · decide
    · simpa using h.clockIdle c
  · simpa [writeSegment_outAt] using h.resetIdle c

theorem LinesInv.initChannel {s : State} {ch : Channel} (h : LinesInv s) (hd : s.isOutput (dataLine ch) = true)
    (hc : s.isOutput (clockLine ch) = true) (hr : s.isOutput (resetLine ch) = true) : LinesInv (initChannel ch s) := by
  rw [isOutput_iff] at hd hc hr
  have hdir : ∀ l, (Machine.initChannel ch s).dirAt l = s.dirAt l := fun l => by
    simp only [State.dirAt, (initChannel_frame s ch).dir]
  refine ⟨fun l => hdir _ ▸ h.display l, fun b => hdir _ ▸ h.button b, fun l hl => ?_, fun c => ?_, fun c => ?_⟩
  · rw [hdir] at hl
    rw [initChannel_outAt, if_neg (by rintro rfl; exact hl hc), if_neg (by rintro rfl; exact hl hd),
      if_neg (by rintro rfl; exact hl hr), h.undriven l hl]
  · rw [initChannel_outAt]; split
    · decide
    · simpa using h.clockIdle c
  · have := h.resetIdle c
    by_cases hcc : c = ch <;> simp [initChannel_outAt, hcc, this]

theorem LinesInv.effect {s t : State} {i : Instr} (he : Effect s i t) (h : LinesInv s) : LinesInv t := by
  cases he with
  | refused _ r => exact h.congr (refuse_dir ..) (refuse_out ..)
  | cfgo d => exact h.configureAsOutput d
  | cfgi b => exact h.configureAsInput b
  | init c _ hd hc hr => exact h.initChannel hd hc hr
  | wseg c code _ hd hc => exact h.writeSegment hd hc code
  | pressed b => exact h.congr (isPressed_frame s b).dir (isPressed_frame s b).out
  | awrel b n => exact h.congr (pollRelease_frame s b _).dir (pollRelease_frame s b _).out
  | delay n => exact h.congr (delay_dir ..) (delay_out ..)

/-- Settles O37: every effect keeps the five clauses. -/
theorem stepKeepsLinesInv : Obligations.StepKeepsLinesInv :=
  fun _ _ h hs => step_keeps (fun same h => h.congr same.dir same.out) LinesInv.effect h hs

/-! ### The replay of `TRACE` -/

theorem TraceInv.congr {s t : State} (same : SameBlock s t) (h : TraceInv s) : TraceInv t := by
  unfold TraceInv State.observed at *
  rw [same.dir, same.out, same.sr, same.time, same.trace, h]

/-- One more event whose replay makes the same change. -/
theorem TraceInv.event {s t : State} {e : Event} (h : TraceInv s) (htrace : t.trace = s.trace ++ [e])
    (hobs : t.observed = s.observed.after e) : TraceInv t := by
  rw [TraceInv, hobs, htrace, h, replay, replay, List.foldl_append]
  rfl

theorem setLine_trace (l : DisplayLine) (v : Bit) : (setLine l v s).trace = s.trace ++ [.set l v] := by
  obtain ⟨r, hr⟩ := setLine_cases s l v
  simp [hr]

/-- Driving a line does to a state what its event does to what is observed, line kind by line kind. -/
theorem setLine_observed (l : DisplayLine) (v : Bit) : (setLine l v s).observed = s.observed.driven l v := by
  generalize hch : lineChannel l = ch
  rcases displayLine_cases l with h | h | h <;> rw [hch] at h <;> subst h
  · have hmod : 3 * ch.val % 3 = 0 := by omega
    rw [setLine_dataLine]
    simp [State.observed, Observed.driven, dataLine, hmod]
  · have hmod : (3 * ch.val + 1) % 3 = 1 := by omega
    have hdiv : (3 * ch.val + 1) / 3 = ch.val := by omega
    cases v
    · rw [setLine_clockLine_low]
      simp [State.observed, Observed.driven, clockLine, hmod]
    · rw [setLine_clockLine_high]
      simp [State.observed, Observed.driven, State.outAt, State.srAt, clockLine, resetLine, dataLine,
        hmod, hdiv]
  · have hmod : (3 * ch.val + 2) % 3 = 2 := by omega
    have hdiv : (3 * ch.val + 2) / 3 = ch.val := by omega
    cases v
    · rw [setLine_resetLine_low]
      simp [State.observed, Observed.driven, resetLine, hmod, hdiv]
    · rw [setLine_resetLine_high]
      simp [State.observed, Observed.driven, resetLine, hmod]

theorem TraceInv.setLine {s : State} (h : TraceInv s) (l : DisplayLine) (v : Bit) : TraceInv (setLine l v s) :=
  h.event (setLine_trace s l v) (setLine_observed s l v)

theorem TraceInv.delay {s : State} (h : TraceInv s) (n : Nat) : TraceInv (delay n s) := h.event rfl rfl

theorem TraceInv.readLine {s : State} (h : TraceInv s) (b : ButtonLine) : TraceInv (readLine b s) :=
  h.event (readLine_trace s b) (by simp [State.observed, Observed.after])

theorem TraceInv.setRes {s : State} (h : TraceInv s) (v : Bit) : TraceInv (setRes v s) := h.congr ⟨rfl, rfl, rfl, rfl, rfl⟩

theorem TraceInv.configureAsOutput {s : State} (h : TraceInv s) (d : DisplayLine) : TraceInv (configureAsOutput d s) := by
  by_cases hd : s.dirAt (displayId d) = .output
  · rwa [configureAsOutput_configured s d hd]
  · rw [configureAsOutput_new s d hd]
    exact h.event rfl (by simp [Observed.after, displayId]; rfl)

theorem TraceInv.configureAsInput {s : State} (h : TraceInv s) (b : ButtonLine) : TraceInv (configureAsInput b s) := by
  by_cases hd : s.dirAt (buttonId b) = .input
  · rwa [configureAsInput_configured s b hd]
  · rw [configureAsInput_new s b hd]
    exact h.event rfl rfl

theorem TraceInv.sendBits {s : State} (h : TraceInv s) (code : Code) (n : Nat) : TraceInv (sendBits ch code n s) := by
  induction n generalizing s with
  | zero => exact h
  | succ n ih => exact ih ((((h.setLine _ _).setLine _ _).delay _).setLine _ _ |>.delay _)

theorem TraceInv.initChannel {s : State} (h : TraceInv s) : TraceInv (initChannel ch s) :=
  (((h.setLine _ _).delay _).setLine _ _).sendBits ch _ 8

theorem TraceInv.isPressed {s : State} (h : TraceInv s) (b : ButtonLine) : TraceInv (isPressed b s) := by
  unfold Machine.isPressed resample
  split
  · exact (((h.readLine b).delay _).readLine b).setRes _
  · exact (h.readLine b).setRes _

theorem TraceInv.pollRelease {s : State} (h : TraceInv s) (b : ButtonLine) (n : Nat) : TraceInv (pollRelease b n s) := by
  induction n generalizing s with
  | zero => exact h
  | succ n ih =>
    unfold Machine.pollRelease
    split
    · exact ih ((h.readLine b).delay _)
    · exact h.readLine b

theorem TraceInv.effect {s t : State} {i : Instr} (he : Effect s i t) (h : TraceInv s) : TraceInv t := by
  cases he with
  | refused _ r => exact h.congr (sameBlock_refuse s r _)
  | cfgo d => exact h.configureAsOutput d
  | cfgi b => exact h.configureAsInput b
  | init c => exact h.initChannel c
  | wseg c code => exact h.sendBits c code 8
  | pressed b => exact h.isPressed b
  | awrel b n => exact h.pollRelease b _
  | delay n => exact h.delay _

/-- Settles O38: every primitive changes the block as the replay of its event does. -/
theorem stepKeepsTraceInv : Obligations.StepKeepsTraceInv :=
  fun _ _ h hs => step_keeps TraceInv.congr TraceInv.effect h hs

/-! ### What a display shows inside a write (R83) -/

/-- What a display shows at a moment of a trace that a state with the invariant was in. -/
theorem shownAfter_of_trace {u t : State} {rest : List Event} {n : Nat} (hu : TraceInv u)
    (ht : t.trace = u.trace ++ rest) (hn : n = u.trace.length) : t.shownAfter n ch = u.srAt ch := by
  rw [State.shownAfter, ht, hn, List.take_left, ← hu]
  rfl

/-- The first bit of a write, event by event: the register moves at the second one, the rising edge. -/
theorem shownAfter_bitEvents {s t : State} {ch : Channel} {b : Bit} {rest : List Event} (h : TraceInv s)
    (hc : s.outAt (clockLine ch) = some false) (hr : s.outAt (resetLine ch) = some true)
    (ht : t.trace = s.trace ++ (bitEvents s.cfg ch b ++ rest)) {n : Nat} (hn : n < 5) :
    t.shownAfter (s.trace.length + n) ch = if n < 2 then s.srAt ch else shiftIn (some b) (s.srAt ch) := by
  have hdata := h.setLine (dataLine ch) b
  have hrise := hdata.setLine (clockLine ch) true
  have hhold := hrise.delay s.cfg.tClk
  have hfall := hhold.setLine (clockLine ch) false
  have hdataSr : (setLine (dataLine ch) b s).srAt ch = s.srAt ch := by simp [setLine_dataLine]
  have hriseSr : (setLine (clockLine ch) true (setLine (dataLine ch) b s)).srAt ch = shiftIn (some b) (s.srAt ch) := by
    simp [setLine_clockLine_high, setLine_dataLine, hc, hr, clockedStages, loadedStages]
  interval_cases n
  · exact shownAfter_of_trace ch h ht rfl
  · exact (shownAfter_of_trace ch hdata (by simp [ht, bitEvents, setLine_trace]; rfl) (by simp [setLine_trace])).trans hdataSr
  · exact (shownAfter_of_trace ch hrise (by simp [ht, bitEvents, setLine_trace]; rfl) (by simp [setLine_trace])).trans hriseSr
  · exact (shownAfter_of_trace ch hhold (by simp [ht, bitEvents, setLine_trace]; rfl) (by simp [setLine_trace])).trans hriseSr
  · refine (shownAfter_of_trace ch hfall (by simp [ht, bitEvents, setLine_trace]; rfl) (by simp [setLine_trace])).trans ?_
    simpa [setLine_clockLine_low] using hriseSr

/-- After `n` events of a write of bits `m - 1`, ..., 0, as many of them are in the register as there were rising edges. -/
theorem shownAfter_sendBits {s : State} {ch : Channel} (code : Code) {m n : Nat} (hn : n ≤ 5 * m + 1) (h : TraceInv s)
    (hc : s.outAt (clockLine ch) = some false) (hr : s.outAt (resetLine ch) = some true) :
    (sendBits ch code m s).shownAfter (s.trace.length + n) ch =
      loadedBits (some true) (code >>> (m - (n + 3) / 5)) ((n + 3) / 5) (s.srAt ch) := by
  induction m generalizing s n with
  | zero =>
    have hnone : (n + 3) / 5 = 0 := by omega
    rw [hnone, State.shownAfter, sendBits, List.take_of_length_le (by omega), ← h]
    rfl
  | succ m ih =>
    have htrace := sendBits_trace s ch code (m + 1)
    rw [sentBits_succ, List.flatMap_cons] at htrace
    by_cases hfirst : n < 5
    · rw [shownAfter_bitEvents h hc hr htrace hfirst]
      split
      · have hnone : (n + 3) / 5 = 0 := by omega
        rw [hnone]; rfl
      · have hone : (n + 3) / 5 = 1 := by omega
        simp [hone, loadedBits, loadedStages]
    · obtain ⟨n', rfl⟩ : ∃ n', n = n' + 5 := ⟨n - 5, by omega⟩
      have hsent : TraceInv (sendBit ch (code.getLsbD m) s) :=
        ((((h.setLine _ _).setLine _ _).delay _).setLine _ _).delay _
      have hlength : s.trace.length + (n' + 5) = (sendBit ch (code.getLsbD m) s).trace.length + n' := by simp; omega
      have hedges : (n' + 5 + 3) / 5 = (n' + 3) / 5 + 1 := by omega
      have hbit : (code >>> (m - (n' + 3) / 5)).getLsbD ((n' + 3) / 5) = code.getLsbD m := by
        rw [BitVec.getLsbD_ushiftRight, Nat.sub_add_cancel (by omega)]
      rw [sendBits, hlength, ih (by omega) hsent (by simp [sendBit_outAt]) (by simpa [sendBit_outAt] using hr),
        sendBit_srAt_same, hc, hr, hedges, Nat.add_sub_add_right, loadedBits, hbit]
      rfl

/-- The content of R83 in the numbers of its formula. -/
theorem loadedBits_codeStages (old code : Code) {k : Nat} (hk : k ≤ 8) :
    loadedBits (some true) (code >>> (8 - k)) k (codeStages old) =
      codeStages (BitVec.ofNat 8 (old.toNat * 2 ^ k ||| code.toNat / 2 ^ (8 - k))) := by
  ext j hj : 1
  simp only [getElem_loadedBits_released, getElem_codeStages, BitVec.getLsbD_ofNat]
  split
  case isTrue h => simp [hj, h.not_ge, Nat.add_comm j, Nat.testBit_mul_two_pow, Nat.testBit_div_two_pow, BitVec.testBit_toNat]
  case isFalse h =>
    have hout : code.getLsbD (j + (8 - k)) = false := BitVec.getLsbD_of_ge _ _ (by omega)
    simp [hj, not_lt.1 h, Nat.testBit_mul_two_pow, Nat.testBit_div_two_pow, BitVec.testBit_toNat, hout]

/-- Settles O21: at the events in question `k` edges have risen. -/
theorem wsegShowsIntermediateContents : Obligations.WsegShowsIntermediateContents := by
  intro s c ch old code h hd hk hc hr hinv hold
  refine ⟨_, exec_wseg_of_outputs s code h hd hk, fun k n hk1 hk8 hlo hhi => ?_⟩
  have hedges : (n + 3) / 5 = k := by omega
  rw [writeSegment, shownAfter_sendBits code (by omega) hinv hc hr, hold, hedges, loadedBits_codeStages old code hk8]

/-! ### Who writes `RES` and the directions -/

@[simp] theorem configureAsOutput_res (d : DisplayLine) : (configureAsOutput d s).res = s.res := by
  unfold configureAsOutput; split <;> simp

@[simp] theorem configureAsInput_res (b : ButtonLine) : (configureAsInput b s).res = s.res := by
  unfold configureAsInput; split <;> simp

theorem isPressed_res_ne_none (b : ButtonLine) : (isPressed b s).res ≠ none := by
  unfold isPressed resample; split <;> simp

theorem Effect.res_ne {s t : State} {i : Instr} (he : Effect s i t) (hne : t.res ≠ s.res) :
    t.res ≠ none ∧ ∃ l, i = .pressed l := by
  cases he with
  | refused _ r => exact absurd (refuse_res ..) hne
  | cfgo d => exact absurd (configureAsOutput_res ..) hne
  | cfgi b => exact absurd (configureAsInput_res ..) hne
  | init c => exact absurd (initChannel_frame s c).res hne
  | wseg c code => exact absurd (writeSegment_frame s c code).res hne
  | pressed b => exact ⟨isPressed_res_ne_none s b, _, rfl⟩
  | awrel b n => exact absurd (pollRelease_res s b _) hne
  | delay n => exact absurd (delay_res ..) hne

/-- Settles O40: by the effect that moved it. -/
theorem onlyPressedWritesResult : Obligations.OnlyPressedWritesResult := by
  intro s t h hne
  rcases step_inversion h with ⟨-, rfl⟩ | ⟨w, hw, ⟨i, hd, he⟩ | ⟨r, -, rfl⟩⟩
  · exact absurd (betweenCommands_res s) hne
  · obtain ⟨hknown, l, rfl⟩ := he.res_ne hne
    exact ⟨hknown, w, _, l, hw, hd⟩
  · exact absurd (refuse_res s.taken r w) hne

theorem Effect.dirAt_ne {s t : State} {i : Instr} {l : Line} (he : Effect s i t) (hne : t.dirAt l ≠ s.dirAt l) :
    (∃ f d, f.toNat = d.val ∧ l = displayId d ∧ i = .cfgo f ∧ s.dirAt l ≠ .output ∧ t.dirAt l = .output) ∨
      ∃ f b, f.toNat = 27 + b.val ∧ l = buttonId b ∧ i = .cfgi f ∧ s.dirAt l ≠ .input ∧ t.dirAt l = .input := by
  have same : t.dir ≠ s.dir := fun h => hne (by simp only [State.dirAt, h])
  cases he with
  | refused _ r => exact absurd (refuse_dir ..) same
  | @cfgo f d hf =>
    by_cases hl : l = displayId d
    · have ht : (configureAsOutput d s).dirAt l = .output := by rw [configureAsOutput_dirAt, if_pos hl]
      exact .inl ⟨f, d, hf, hl, rfl, fun h => hne (ht.trans h.symm), ht⟩
    · rw [configureAsOutput_dirAt, if_neg hl] at hne
      exact absurd rfl hne
  | @cfgi f b hf =>
    by_cases hl : l = buttonId b
    · have ht : (configureAsInput b s).dirAt l = .input := by rw [configureAsInput_dirAt, if_pos hl]
      exact .inr ⟨f, b, hf, hl, rfl, fun h => hne (ht.trans h.symm), ht⟩
    · rw [configureAsInput_dirAt, if_neg hl] at hne
      exact absurd rfl hne
  | init c => exact absurd (initChannel_frame s c).dir same
  | wseg c code => exact absurd (writeSegment_frame s c code).dir same
  | pressed b => exact absurd (isPressed_frame s b).dir same
  | awrel b n => exact absurd (pollRelease_frame s b _).dir same
  | delay n => exact absurd (delay_dir ..) same

/-- A direction that is neither of the two is the third. -/
theorem dir_eq_unconfigured {d : Dir} (hi : d ≠ .input) (ho : d ≠ .output) : d = .unconfigured := by
  cases d <;> simp_all

/-- Settles O41: the class of the line leaves only `Unconfigured` as the direction it had. -/
theorem configuredLinesStayConfigured : Obligations.ConfiguredLinesStayConfigured := by
  intro s t l hinv h hne
  rcases step_inversion h with ⟨-, rfl⟩ | ⟨w, hw, ⟨i, hd, he⟩ | ⟨r, -, rfl⟩⟩
  · exact absurd (by simp only [State.dirAt, betweenCommands_dir]) hne
  · rcases he.dirAt_ne hne with ⟨f, d, hf, rfl, rfl, hs, ht⟩ | ⟨f, b, hf, rfl, rfl, hs, ht⟩
    · exact ⟨dir_eq_unconfigured (hinv.display d) hs, w, _, f, hw, hf, .inl ⟨hd, ht⟩⟩
    · exact ⟨dir_eq_unconfigured hs (hinv.button b), w, _, f, hw, hf, .inr ⟨hd, ht⟩⟩
  · exact absurd (dirAt_refuse s.taken r w l) hne

end Sys2Proof.Machine

/-! SUPPORT. `TRACE` and `TIME` as bookkeeping (R16, R17): every operation adds a list of events to them, and does so without looking
at them, but for `TIME` under an environment that is a function of it (R18). -/

namespace Sys2Proof.Machine

variable (s : State)

/-! ### Other bookkeeping -/

/-- The state with other bookkeeping. -/
def State.rewritten (s : State) (trace : List Event) (time : Nat) : State := { s with trace := trace, time := time }

/-- The environment is no function of `TIME` (R18). -/
def State.Scripted (s : State) : Prop := ∃ script, s.oracle = .perSample script

/-- A value of `TIME` that an operation on `s` cannot tell from the one in `s`. -/
def State.Unseen (s : State) (time : Nat) : Prop := time = s.time ∨ s.Scripted

theorem delaySum_append (xs ys : List Event) : delaySum (xs ++ ys) = delaySum xs + delaySum ys := by
  induction xs using delaySum.induct with
  | case1 => simp [delaySum]
  | case2 n xs ih => simp [delaySum, ih, Nat.add_assoc]
  | case3 e xs he ih => cases e <;> simp_all [delaySum]

/-- `f` adds the events `es` to the bookkeeping of `s`, and does the same to every other bookkeeping it cannot tell from it. -/
def Adds (f : State → State) (s : State) (es : List Event) : Prop :=
  (s.Scripted → (f s).Scripted) ∧
    ∀ trace time, s.Unseen time → f (s.rewritten trace time) = (f s).rewritten (trace ++ es) (time + delaySum es)

section
variable {s} {f g : State → State} {es fs : List Event}

theorem Adds.eq_rewritten (h : Adds f s es) : f s = (f s).rewritten (s.trace ++ es) (s.time + delaySum es) :=
  h.2 s.trace s.time (.inl rfl)

theorem Adds.trace (h : Adds f s es) : (f s).trace = s.trace ++ es := congrArg State.trace h.eq_rewritten

theorem Adds.time (h : Adds f s es) : (f s).time = s.time + delaySum es := congrArg State.time h.eq_rewritten

/-- What is unseen before an operation is, with its delays added, unseen after it. -/
theorem Adds.unseen (h : Adds f s es) {time : Nat} (ht : s.Unseen time) : (f s).Unseen (time + delaySum es) :=
  ht.imp (fun he => by rw [he, h.time]) h.1

theorem Adds.comp (hf : Adds f s es) (hg : Adds g (f s) fs) : Adds (fun x => g (f x)) s (es ++ fs) := by
  refine ⟨fun hs => hg.1 (hf.1 hs), fun trace time ht => ?_⟩
  change g (f (s.rewritten trace time)) = _
  rw [hf.2 _ _ ht, hg.2 _ _ (hf.unseen ht), delaySum_append, List.append_assoc, Nat.add_assoc]

/-- Only the state and its other bookkeepings matter. -/
theorem Adds.congr (h : Adds g s es)
    (heq : ∀ trace time, s.Unseen time → f (s.rewritten trace time) = g (s.rewritten trace time)) : Adds f s es := by
  have hs : f s = g s := heq s.trace s.time (.inl rfl)
  exact ⟨fun hscript => hs ▸ h.1 hscript, fun trace time ht => by rw [heq _ _ ht, h.2 _ _ ht, hs]⟩

end

/-! ### The shared operations -/

theorem refuse_adds (r : Reason) (w : Word) : Adds (refuse r w) s [] := by
  refine ⟨fun ⟨script, h⟩ => ⟨script, by simpa using h⟩, fun trace time _ => ?_⟩
  simp [refuse_eq, State.rewritten, delaySum]

theorem delay_adds (n : Nat) : Adds (delay n) s [.delay n] := ⟨id, fun _ _ _ => rfl⟩

theorem setRes_adds (v : Bit) : Adds (setRes v) s [] :=
  ⟨id, fun trace time _ => by simp [setRes, State.rewritten, delaySum]⟩

theorem id_adds : Adds id s [] := ⟨id, fun trace time _ => by simp [State.rewritten, delaySum]⟩

/-- Writing other components and one event. -/
theorem log_adds {f : State → State} (e : Event) (horacle : (f s).oracle = s.oracle)
    (hf : ∀ trace time, f (s.rewritten trace time) = (f s).rewritten trace time) (he : delaySum [e] = 0) :
    Adds (fun x => (f x).log e) s [e] := by
  refine ⟨fun ⟨script, h⟩ => ⟨script, horacle.trans h⟩, fun trace time _ => ?_⟩
  simp only [hf, he]
  rfl

theorem configureAsOutput_adds (d : DisplayLine) : ∃ es, Adds (configureAsOutput d) s es := by
  by_cases h : s.dirAt (displayId d) = .output
  · exact ⟨[], (id_adds s).congr fun trace time _ => configureAsOutput_configured (s.rewritten trace time) d h⟩
  · exact ⟨_, (log_adds s (.cfg (displayId d) .output) (f := fun x =>
      ((x.setDir (displayId d) .output).setOut d none).setSr (lineChannel d) Stages.unknown) rfl (fun _ _ => rfl) rfl).congr
      fun trace time _ => configureAsOutput_new (s.rewritten trace time) d h⟩

theorem configureAsInput_adds (b : ButtonLine) : ∃ es, Adds (configureAsInput b) s es := by
  by_cases h : s.dirAt (buttonId b) = .input
  · exact ⟨[], (id_adds s).congr fun trace time _ => configureAsInput_configured (s.rewritten trace time) b h⟩
  · exact ⟨_, (log_adds s (.cfg (buttonId b) .input) (f := State.setDir (buttonId b) .input) rfl (fun _ _ => rfl) rfl).congr
      fun trace time _ => configureAsInput_new (s.rewritten trace time) b h⟩

theorem setLine_resetLine_adds (ch : Channel) (v : Bit) : Adds (setLine (resetLine ch) v) s [.set (resetLine ch) v] := by
  cases v
  · refine ⟨fun ⟨script, h⟩ => ⟨script, by simpa [setLine_resetLine_low] using h⟩, fun trace time _ => ?_⟩
    rw [setLine_resetLine_low, setLine_resetLine_low]; rfl
  · refine ⟨fun ⟨script, h⟩ => ⟨script, by simpa [setLine_resetLine_high] using h⟩, fun trace time _ => ?_⟩
    rw [setLine_resetLine_high, setLine_resetLine_high]; rfl

theorem sendBit_adds (ch : Channel) (b : Bit) : Adds (sendBit ch b) s (bitEvents s.cfg ch b) := by
  refine ⟨fun ⟨script, h⟩ => ⟨script, by simpa using h⟩, fun trace time _ => ?_⟩
  simp [sendBit_eq, State.rewritten, bitEvents, delaySum, State.outAt, State.srAt, Nat.add_assoc]

theorem sendBits_adds (ch : Channel) (code : Code) (n : Nat) : ∃ es, Adds (sendBits ch code n) s es := by
  induction n generalizing s with
  | zero => exact ⟨[], id, fun trace time _ => by simp [sendBits, State.rewritten, delaySum]⟩
  | succ n ih =>
    obtain ⟨es, hes⟩ := ih (sendBit ch (code.getLsbD n) s)
    exact ⟨_, (sendBit_adds s ch _).comp hes⟩

theorem initChannel_adds (ch : Channel) : ∃ es, Adds (initChannel ch) s es := by
  have hpulse := ((setLine_resetLine_adds s ch false).comp (delay_adds _ s.cfg.tMr)).comp (setLine_resetLine_adds _ ch true)
  obtain ⟨es, hes⟩ := sendBits_adds (setLine (resetLine ch) true (delay s.cfg.tMr (setLine (resetLine ch) false s))) ch
    Config.blank 8
  exact ⟨_, (hpulse.comp hes).congr fun _ _ _ => rfl⟩

/-! ### Sampling -/

theorem nextSample_rewritten {s : State} {time : Nat} (ht : s.Unseen time) (trace : List Event) (b : ButtonLine) :
    (s.rewritten trace time).nextSample b = s.nextSample b := by
  rcases ht with rfl | ⟨script, h⟩
  · rfl
  · cases script <;> simp [State.nextSample, State.rewritten, h]

theorem readsAsserted_rewritten {s : State} {time : Nat} (ht : s.Unseen time) (trace : List Event) (b : ButtonLine) :
    (s.rewritten trace time).readsAsserted b = s.readsAsserted b :=
  congrArg (asserted s.cfg b) (nextSample_rewritten ht trace b)

theorem sampleTaken_adds : Adds State.sampleTaken s [] := by
  unfold Adds State.sampleTaken
  refine ⟨fun ⟨script, h⟩ => ?_, fun trace time _ => ?_⟩
  · cases script <;> simp [h, State.Scripted]
  · simp only [State.rewritten, List.append_nil, delaySum, Nat.add_zero]
    split <;> simp_all

theorem readLine_adds (b : ButtonLine) : Adds (readLine b) s [.sample (buttonId b) (s.nextSample b)] := by
  refine ((sampleTaken_adds s).comp (g := State.log (.sample (buttonId b) (s.nextSample b))) ⟨id, fun _ _ _ => rfl⟩).congr ?_
  intro trace time ht
  rw [readLine, nextSample_rewritten ht]

theorem resample_adds (b : ButtonLine) : ∃ es, Adds (resample b) s es :=
  ⟨_, ((readLine_adds s b).comp (setRes_adds _ (s.readsAsserted b))).congr fun trace time ht => by
    rw [resample, readsAsserted_rewritten ht]⟩

theorem isPressed_adds (b : ButtonLine) : ∃ es, Adds (isPressed b) s es := by
  by_cases h : s.readsAsserted b = true
  · obtain ⟨es, hes⟩ := resample_adds (delay s.cfg.tDebounce (readLine b s)) b
    refine ⟨_, (((readLine_adds s b).comp (delay_adds _ s.cfg.tDebounce)).comp hes).congr fun trace time ht => ?_⟩
    rw [isPressed, readsAsserted_rewritten ht, if_pos h]; rfl
  · refine ⟨_, ((readLine_adds s b).comp (setRes_adds _ false)).congr fun trace time ht => ?_⟩
    rw [isPressed, readsAsserted_rewritten ht, if_neg h]

theorem pollRelease_adds (b : ButtonLine) (n : Nat) : ∃ es, Adds (pollRelease b n) s es := by
  induction n generalizing s with
  | zero => exact ⟨[], id, fun trace time _ => by simp [pollRelease, State.rewritten, delaySum]⟩
  | succ n ih =>
    by_cases h : s.readsAsserted b = true
    · obtain ⟨es, hes⟩ := ih (delay s.cfg.tPoll (readLine b s))
      refine ⟨_, (((readLine_adds s b).comp (delay_adds _ s.cfg.tPoll)).comp hes).congr fun trace time ht => ?_⟩
      rw [pollRelease, readsAsserted_rewritten ht, if_pos h]; rfl
    · refine ⟨_, (readLine_adds s b).congr fun trace time ht => ?_⟩
      rw [pollRelease, readsAsserted_rewritten ht, if_neg h]

/-! ### The operations -/

theorem exists_channel {c : BitVec 8} (h : channelReason c = none) : ∃ ch : Channel, c.toNat = ch.val := by
  rcases channelOperand_eq c with ⟨⟨ch, hc, -⟩, -⟩ | ⟨r, -, hr⟩
  · exact ⟨ch, hc.symm⟩
  · simp [h] at hr

theorem exists_displayLine {l : BitVec 8} (h : displayLineReason l = none) : ∃ d : DisplayLine, l.toNat = d.val := by
  rcases displayOperand_eq l with ⟨⟨d, hd, -⟩, -⟩ | ⟨r, -, hr⟩
  · exact ⟨d, hd.symm⟩
  · simp [h] at hr

theorem exists_buttonLine {l : BitVec 8} (h : buttonLineReason l = none) : ∃ b : ButtonLine, l.toNat = 27 + b.val := by
  rcases buttonOperand_eq l with ⟨⟨b, hb, -⟩, -⟩ | ⟨r, -, hr⟩
  · exact ⟨b, hb.symm⟩
  · simp [h] at hr

/-- An operation is one function on a state and on its other bookkeepings, and that function adds events to them. -/
theorem exec_adds (i : Instr) : ∃ f es, Adds f s es ∧
    ∀ trace time, exec i (s.rewritten trace time) = .next (f (s.rewritten trace time)) := by
  have runs : ∀ {f : State → State}, (∃ es, Adds f s es) →
      (∀ trace time, exec i (s.rewritten trace time) = .next (f (s.rewritten trace time))) →
      ∃ f es, Adds f s es ∧ ∀ trace time, exec i (s.rewritten trace time) = .next (f (s.rewritten trace time)) :=
    fun ⟨es, hf⟩ h => ⟨_, es, hf, h⟩
  have refused := fun r => runs ⟨_, refuse_adds s r (encode i)⟩
  cases hr : i.operandReason with
  | some r => exact refused r fun _ _ => exec_of_operandReason _ hr
  | none =>
    cases i with
    | cfgo l =>
      obtain ⟨d, hd⟩ := exists_displayLine hr
      exact runs (configureAsOutput_adds s d) fun _ _ => exec_cfgo_of_val _ hd
    | cfgi l =>
      obtain ⟨b, hb⟩ := exists_buttonLine hr
      exact runs (configureAsInput_adds s b) fun _ _ => exec_cfgi_of_val _ hb
    | init c =>
      obtain ⟨ch, hc⟩ := exists_channel hr
      by_cases ho : s.isOutput (dataLine ch) = true ∧ s.isOutput (clockLine ch) = true ∧ s.isOutput (resetLine ch) = true
      · exact runs (initChannel_adds s ch) fun _ _ => exec_init_of_outputs _ hc ho.1 ho.2.1 ho.2.2
      · refine refused .lineNotOutput fun trace time => ?_
        simp only [exec, execInit, channelOperand_of_val hc]
        exact congrArg _ (if_neg ho)
    | wseg c code =>
      obtain ⟨ch, hc⟩ := exists_channel hr
      by_cases ho : s.isOutput (dataLine ch) = true ∧ s.isOutput (clockLine ch) = true
      · exact runs (sendBits_adds s ch code 8) fun _ _ => exec_wseg_of_outputs _ code hc ho.1 ho.2
      · refine refused .lineNotOutput fun trace time => ?_
        simp only [exec, execWseg, channelOperand_of_val hc]
        exact congrArg _ (if_neg ho)
    | pressed l =>
      obtain ⟨b, hb⟩ := exists_buttonLine hr
      by_cases hi : s.dirAt (buttonId b) = .input
      · exact runs (isPressed_adds s b) fun _ _ => exec_pressed_of_input hb hi
      · exact refused .lineNotInput fun _ _ => exec_pressed_of_not_input hb hi
    | awrel l n =>
      obtain ⟨b, hb⟩ := exists_buttonLine hr
      by_cases hi : s.dirAt (buttonId b) = .input
      · exact runs (pollRelease_adds s b n.toNat) fun _ _ => exec_awrel_of_input n hb hi
      · exact refused .lineNotInput fun _ _ => exec_awrel_of_not_input n hb hi
    | delay n => exact runs ⟨_, delay_adds s n.toNat⟩ fun _ _ => exec_delay _ n

/-- An operation adds its new events to `TRACE` and their delays to `TIME`, and to any other bookkeeping likewise. -/
theorem exec_rewritten {s t : State} {i : Instr} (h : exec i s = .next t) :
    t.trace = s.trace ++ s.newEvents t ∧ t.time = s.time + delaySum (s.newEvents t) ∧
      ∀ trace time, s.Unseen time → exec i (s.rewritten trace time) =
        .next (t.rewritten (trace ++ s.newEvents t) (time + delaySum (s.newEvents t))) := by
  obtain ⟨f, es, hf, hexec⟩ := exec_adds s i
  obtain rfl : f s = t := Host.Outcome.next.inj ((hexec s.trace s.time).symm.trans h)
  rw [newEvents_of_trace hf.trace]
  exact ⟨hf.trace, hf.time, fun trace time ht => by rw [hexec, hf.2 _ _ ht]⟩

/-- Settles O42: every operation adds its events to any bookkeeping alike. -/
theorem bookkeepingIsNeverRead : Obligations.BookkeepingIsNeverRead := by
  intro i s t trace h
  obtain ⟨-, htime, hall⟩ := exec_rewritten h
  refine ⟨(hall trace s.time (.inl rfl)).trans ?_, fun script time hscript => hall trace time (.inr ⟨script, hscript⟩)⟩
  rw [← htime]; rfl

/-- Settles O39: a command adds its new events, anything else none. -/
theorem stepOnlyExtendsHistory : Obligations.StepOnlyExtendsHistory := by
  intro s t h
  rcases step_cases h with ⟨hc, rfl⟩ | ⟨w, rest, hw, ⟨i, -, hi⟩ | ⟨r, -, rfl⟩⟩
  · exact ⟨[], by simp [hc, delaySum]⟩
  · obtain ⟨htrace, htime, -⟩ := exec_rewritten hi
    obtain ⟨hcfg, hcommands, hcp, hhost⟩ := exec_keeps hi
    exact ⟨_, htrace, htime, hcfg, fun _ => ⟨hcp, by rw [hcommands, hw]; rfl, hhost⟩, fun hc => by simp [hw] at hc⟩
  · exact ⟨[], by simp [hw, delaySum]⟩

end Sys2Proof.Machine

/-! SUPPORT. The Game Engine (R113 to R117), the decisions of the control loop one by one (R126 to R131), and what the session
satisfies at each of its program points. -/

namespace Sys2Proof.Machine

/-! ### The board -/

/-- Settles O43: the two arms of `applyMove`. -/
theorem moveTakesOnlyEmptyCell : Obligations.MoveTakesOnlyEmptyCell := by
  refine fun board i p => ⟨fun h => if_neg h, fun h => ⟨_, if_pos h, ?_, fun j hj => ?_⟩⟩
  · rw [cellAt_set, if_pos rfl]
  · rw [cellAt_set, if_neg hj]

theorem lineWinner_eq_none {board : Board} {line : Channel × Channel × Channel} :
    lineWinner board line = none ↔
      ∀ p, ¬ (cellAt board line.1 = .taken p ∧ cellAt board line.2.1 = .taken p ∧ cellAt board line.2.2 = .taken p) := by
  simp only [Option.eq_none_iff_forall_ne_some, ne_eq, lineWinner_eq_some]

/-- Settles O44: `findSome?` over the lines, each line by `lineWinner`. -/
theorem winIsFirstCompleteLine : Obligations.WinIsFirstCompleteLine := by
  refine fun board => ⟨?_, fun p => ?_, rfl⟩
  · simp only [evaluateWin, List.findSome?_eq_none_iff, lineWinner_eq_none]
  · simp only [evaluateWin, List.findSome?_eq_some_iff, lineWinner_eq_some, lineWinner_eq_none]

theorem evaluateWin_line {board : Board} {p : Player} (h : evaluateWin board = some p) :
    ∃ line ∈ winningLines, lineWinner board line = some p :=
  List.exists_of_findSome?_eq_some h

/-- A move gives no line to the other player. -/
theorem evaluateWin_set_ne {board : Board} {i : Channel} {p q : Player} (h : evaluateWin board = none) (hq : q ≠ p) :
    evaluateWin (board.set i.val (.taken p)) ≠ some q := by
  intro hwin
  obtain ⟨line, hline, hq'⟩ := evaluateWin_line hwin
  have before : ∀ j, cellAt (board.set i.val (.taken p)) j = .taken q → cellAt board j = .taken q := by
    intro j hj
    rw [cellAt_set] at hj
    split at hj
    · exact absurd (Cell.taken.inj hj).symm hq
    · exact hj
  obtain ⟨h1, h2, h3⟩ := lineWinner_eq_some.1 hq'
  have hwon := lineWinner_eq_some.2 ⟨before _ h1, before _ h2, before _ h3⟩
  rw [List.findSome?_eq_none_iff.1 h line hline] at hwon
  cases hwon

/-- A full board has nine taken cells. -/
theorem takenCount_of_draw {board : Board} (h : evaluateDraw board = true) : takenCount board = 9 := by
  rw [takenCount, List.filter_eq_self.2 (List.all_eq_true.1 h), Vector.length_toList]

/-! ### The session -/

/-- Settles O46: `resetSession` is `Session.start`. -/
theorem sessionResetRestoresStart : Obligations.SessionResetRestoresStart := by
  refine fun session => ⟨fun i => ?_, rfl, rfl, rfl⟩
  simp [cellAt, resetSession]

theorem other_ne (p : Player) : other p ≠ p := by cases p <;> decide

theorem eq_of_ne_other {p q : Player} (h : p ≠ other q) : p = q := by cases p <;> cases q <;> simp_all [other]

theorem afterMove_of_win {session : Session} {p : Player} (h : evaluateWin session.board = some p) :
    afterMove session = { session with status := .won p } := by
  simp [afterMove, h]

theorem afterMove_of_draw {session : Session} (h : evaluateWin session.board = none)
    (hd : evaluateDraw session.board = true) : afterMove session = { session with status := .draw } := by
  simp [afterMove, h, hd]

theorem afterMove_of_ongoing {session : Session} (h : evaluateWin session.board = none)
    (hd : evaluateDraw session.board = false) : afterMove session = { session with cur := other session.cur } := by
  simp [afterMove, h, hd]

/-- The three outcomes of a board: won, full, or neither. -/
theorem board_cases (board : Board) : (∃ p, evaluateWin board = some p) ∨
    evaluateWin board = none ∧ evaluateDraw board = true ∨ evaluateWin board = none ∧ evaluateDraw board = false := by
  cases evaluateWin board <;> cases evaluateDraw board <;> simp

theorem afterMove_board (session : Session) : (afterMove session).board = session.board := by
  rcases board_cases session.board with ⟨p, h⟩ | ⟨h, hd⟩ | ⟨h, hd⟩
  · rw [afterMove_of_win h]
  · rw [afterMove_of_draw h hd]
  · rw [afterMove_of_ongoing h hd]

/-- Settles O48: by the three outcomes of the board. -/
theorem statusFollowsAcceptedMove : Obligations.StatusFollowsAcceptedMove := by
  intro session hs
  have hother := (other_ne session.cur).symm
  refine ⟨afterMove_board session, ?_⟩
  rcases board_cases session.board with ⟨p, h⟩ | ⟨h, hd⟩ | ⟨h, hd⟩
  · simp [afterMove_of_win h, h, hother]
  · simp [afterMove_of_draw h hd, h, hd, hother]
  · simp [afterMove_of_ongoing h hd, h, hd, hs, hother.symm]

/-! ### The decisions of the control loop -/

/-- One turn of the host, by program point and by what it found there (R125 to R131). -/
inductive Decision (cfg : Config) (pressed : Bool) : GameHost → Turn → Prop
  | boot (session : Session) : Decision cfg pressed { session := session, phase := .boot }
      { host := { session := Session.start, phase := .cycle }, issues := bootCommands }
  | scan (session : Session) : session.status = .inProgress →
      Decision cfg pressed { session := session, phase := .cycle }
        { host := { session := session, phase := .scanned 0 }, issues := [pressedCommand (cellButton 0)] }
  | resetOnly (session : Session) : session.status ≠ .inProgress →
      Decision cfg pressed { session := session, phase := .cycle } (sampleReset session [])
  | move (session : Session) (i : Channel) : pressed = true → cellAt session.board i = .empty →
      Decision cfg pressed { session := session, phase := .scanned i }
        { host := { session := { session with board := session.board.set i.val (.taken session.cur) }, phase := .moved },
          issues := [renderCell cfg (.taken session.cur) i, awrelCommand cfg (cellButton i)] }
  | next (session : Session) (i j : Channel) : pressed = false ∨ cellAt session.board i ≠ .empty → j.val = i.val + 1 →
      Decision cfg pressed { session := session, phase := .scanned i }
        { host := { session := session, phase := .scanned j }, issues := [pressedCommand (cellButton j)] }
  | last (session : Session) (i : Channel) : pressed = false ∨ cellAt session.board i ≠ .empty → i.val = 8 →
      Decision cfg pressed { session := session, phase := .scanned i } (sampleReset session [])
  | evaluate (session : Session) : Decision cfg pressed { session := session, phase := .moved }
      (sampleReset (afterMove session) (celebrate cfg (afterMove session)))
  | restart (session : Session) : pressed = true → Decision cfg pressed { session := session, phase := .resetSampled }
      { host := { session := Session.start, phase := .cycle },
        issues := blankAllCommands cfg ++ [awrelCommand cfg resetButton] }
  | carryOn (session : Session) : pressed = false → Decision cfg pressed { session := session, phase := .resetSampled }
      { host := { session := session, phase := .cycle }, issues := [] }

theorem scanNext_of_succ {i j : Channel} (session : Session) (h : j.val = i.val + 1) : scanNext session i =
    { host := { session := session, phase := .scanned j }, issues := [pressedCommand (cellButton j)] } := by
  have hlt : i.val + 1 < 9 := by omega
  obtain rfl : j = ⟨i.val + 1, hlt⟩ := Fin.ext h
  exact dif_pos hlt

theorem scanNext_of_last {i : Channel} (session : Session) (h : i.val = 8) : scanNext session i = sampleReset session [] :=
  dif_neg (by omega)

theorem scanDecide_of_accepted {i : Channel} {pressed : Bool} {session : Session} (cfg : Config) (hp : pressed = true)
    (he : cellAt session.board i = .empty) : scanDecide cfg pressed session i =
      { host := { session := { session with board := session.board.set i.val (.taken session.cur) }, phase := .moved },
        issues := [renderCell cfg (.taken session.cur) i, awrelCommand cfg (cellButton i)] } := by
  simp [scanDecide, hp, applyMove, he]

theorem scanDecide_of_rejected {i : Channel} {pressed : Bool} {session : Session} (cfg : Config)
    (h : pressed = false ∨ cellAt session.board i ≠ .empty) : scanDecide cfg pressed session i = scanNext session i := by
  rcases h with rfl | h
  · rfl
  · simp [scanDecide, applyMove, h]

theorem decision_hostTurn (cfg : Config) (pressed : Bool) (h : GameHost) : Decision cfg pressed h (hostTurn cfg pressed h) := by
  obtain ⟨session, phase⟩ := h
  cases phase with
  | boot => exact .boot session
  | cycle =>
    by_cases hs : session.status = .inProgress
    · simpa only [hostTurn, if_pos hs] using Decision.scan session hs
    · simpa only [hostTurn, if_neg hs] using Decision.resetOnly session hs
  | scanned i =>
    by_cases h : pressed = true ∧ cellAt session.board i = .empty
    · simpa only [hostTurn, scanDecide_of_accepted cfg h.1 h.2] using Decision.move session i h.1 h.2
    · have hno : pressed = false ∨ cellAt session.board i ≠ .empty := by
        rwa [not_and_or, Bool.not_eq_true] at h
      simp only [hostTurn, scanDecide_of_rejected cfg hno]
      by_cases hi : i.val = 8
      · rw [scanNext_of_last session hi]; exact .last session i hno hi
      · have hj : (⟨i.val + 1, by omega⟩ : Channel).val = i.val + 1 := rfl
        rw [scanNext_of_succ session hj]; exact .next session i _ hno hj
  | moved => exact .evaluate session
  | resetSampled =>
    cases pressed with
    | true => exact .restart session rfl
    | false => exact .carryOn session rfl

/-- Settles O57: the operand fields are those of the buttons' lines. -/
theorem scanStopsAtFirstAcceptedPress : Obligations.ScanStopsAtFirstAcceptedPress := by
  refine fun cfg session i pressed => ⟨fun hp he => ⟨_, if_pos he, ?_⟩, fun hno j hj => ?_, fun hno hi => ?_⟩
  · exact scanDecide_of_accepted cfg hp he
  · exact (scanDecide_of_rejected cfg hno).trans (scanNext_of_succ session hj)
  · exact (scanDecide_of_rejected cfg hno).trans (scanNext_of_last session hi)

/-- Settles O58: each clause is one arm of `hostTurn`. -/
theorem loopTurnsFollowTheContract : Obligations.LoopTurnsFollowTheContract := by
  intro cfg session pressed write blankAll restoreAll flashOnce turn sampling
  refine ⟨fun hs => if_pos hs, fun hs => if_neg hs, fun p hwin => ?_, fun hwin hdraw => ?_, fun hwin hdraw hs => ?_,
    fun hp => if_pos hp, fun hp => if_neg (by simp [hp])⟩
  · simp only [turn, hostTurn, afterMove_of_win hwin]; rfl
  · simp only [turn, hostTurn, afterMove_of_draw hwin hdraw]; rfl
  · simp only [turn, hostTurn, afterMove_of_ongoing hwin hdraw, celebrate, hs]; rfl

/-! ### The commands of a turn -/

theorem operating_writes {cfg : Config} (cell : Channel → Cell) :
    ∀ i ∈ channels.map fun ch => renderCell cfg (cell ch) ch, Operating cfg i := by
  simp only [List.forall_mem_map]
  exact fun ch _ => .write ch (cell ch)

theorem operating_flash (cfg : Config) (board : Board) : ∀ i ∈ flashCommands cfg board, Operating cfg i := by
  intro i hi
  obtain ⟨once, honce, hi⟩ := List.mem_flatten.1 hi
  obtain rfl := List.eq_of_mem_replicate honce
  simp only [flashOnce, List.mem_append, List.mem_singleton] at hi
  rcases hi with ((hi | rfl) | hi) | rfl
  · exact operating_writes (fun _ => .empty) i hi
  · exact .hold
  · exact operating_writes (cellAt board) i hi
  · exact .hold

theorem operating_celebrate (cfg : Config) (session : Session) : ∀ i ∈ celebrate cfg session, Operating cfg i := by
  unfold celebrate
  split
  next p _ => exact operating_writes fun _ => .taken p
  next => exact operating_flash cfg session.board
  next => simp

theorem operating_sampleReset {cfg : Config} {before : List Instr} (session : Session)
    (h : ∀ i ∈ before, Operating cfg i) : ∀ i ∈ (sampleReset session before).issues, Operating cfg i :=
  List.forall_mem_append.2 ⟨h, List.forall_mem_singleton.2 (.pressed resetButton)⟩

theorem Decision.operating {cfg : Config} {pressed : Bool} {h : GameHost} {turn : Turn} (hd : Decision cfg pressed h turn)
    (hb : h.phase ≠ .boot) : ∀ i ∈ turn.issues, Operating cfg i := by
  cases hd with
  | boot => exact absurd rfl hb
  | scan => exact List.forall_mem_singleton.2 (.pressed _)
  | resetOnly session => exact operating_sampleReset session (by simp)
  | move session i => exact List.forall_mem_cons.2 ⟨.write i _, List.forall_mem_singleton.2 (.await _)⟩
  | next => exact List.forall_mem_singleton.2 (.pressed _)
  | last session => exact operating_sampleReset session (by simp)
  | evaluate session => exact operating_sampleReset _ (operating_celebrate cfg _)
  | restart =>
    exact List.forall_mem_append.2 ⟨operating_writes fun _ => .empty, List.forall_mem_singleton.2 (.await _)⟩
  | carryOn => simp

theorem Decision.phase_ne_boot {cfg : Config} {pressed : Bool} {h : GameHost} {turn : Turn}
    (hd : Decision cfg pressed h turn) : turn.host.phase ≠ .boot := by
  cases hd <;> exact Phase.noConfusion

/-- Settles O50: by the decision the turn is. -/
theorem hostIssuesOnlyOperatingCommands : Obligations.HostIssuesOnlyOperatingCommands :=
  fun cfg pressed h => ⟨(decision_hostTurn cfg pressed h).phase_ne_boot, (decision_hostTurn cfg pressed h).operating⟩

/-! ### The session over steps -/

/-- The host after a step: as it was while a command runs, otherwise as one decision leaves it. -/
theorem step_host {s t : State} {h : GameHost} (hh : s.host = some h) (hs : step s = .next t) :
    s.commands ≠ [] ∧ t.host = some h ∨
      s.commands = [] ∧ ∃ turn, Decision s.cfg s.pressedFlag h turn ∧ t = betweenCommands s ∧ t.host = some turn.host ∧
        t.commands = turn.issues.map encode := by
  by_cases hc : s.commands = []
  · obtain rfl : betweenCommands s = t := Host.Outcome.next.inj ((step_of_idle hc).symm.trans hs)
    exact .inr ⟨hc, _, decision_hostTurn _ _ h, rfl, betweenCommands_host s hh, betweenCommands_commands s hh⟩
  · exact .inl ⟨hc, (step_command_keeps hs hc).2.2.trans hh⟩

/-- Settles O55: a move takes an empty cell, every other decision keeps the board or starts again. -/
theorem takenCellsAreKept : Obligations.TakenCellsAreKept := by
  intro s t h hh hs
  rcases step_host hh hs with ⟨-, ht⟩ | ⟨hc, turn, hd, -, ht, -⟩
  · exact ⟨h, ht, fun _ => rfl, .inr fun _ _ => id⟩
  · refine ⟨turn.host, ht, fun hne => absurd hc hne, ?_⟩
    cases hd with
    | boot => exact .inl rfl
    | restart => exact .inl rfl
    | move session i hp he =>
      refine .inr fun j p hj => ?_
      have hne : j ≠ i := by rintro rfl; cases he.symm.trans hj
      rw [cellAt_set, if_neg hne, hj]
    | evaluate session => exact .inr fun j p hj => by rwa [sampleReset, afterMove_board]
    | scan | resetOnly | next | last | carryOn => exact .inr fun _ _ => id

/-- Settles O56: by the decision the turn is. -/
theorem sessionMovesOnlyAsStated : Obligations.SessionMovesOnlyAsStated := by
  intro s t h hh hs
  rcases step_host hh hs with ⟨-, ht⟩ | ⟨hc, turn, hd, -, ht, -⟩
  · exact ⟨h, ht, .inl rfl⟩
  · refine ⟨turn.host, ht, ?_⟩
    generalize hpressed : s.pressedFlag = pressed at hd
    cases hd with
    | boot => exact .inr ⟨hc, .inl ⟨rfl, .inl rfl⟩⟩
    | restart _ hp => exact .inr ⟨hc, .inl ⟨rfl, .inr ⟨rfl, hp⟩⟩⟩
    | move session i hp he => exact .inr ⟨hc, .inr (.inr ⟨i, _, rfl, hp, if_pos he, rfl⟩)⟩
    | evaluate => exact .inr ⟨hc, .inr (.inl ⟨rfl, rfl⟩)⟩
    | scan | resetOnly | next | last | carryOn => exact .inl rfl

theorem movePending_of_move {session : Session} {i : Channel} (h : StatusAgrees session)
    (hs : session.status = .inProgress) (he : cellAt session.board i = .empty) :
    MovePending { session with board := session.board.set i.val (.taken session.cur) } := by
  simp only [StatusAgrees, hs] at h
  obtain ⟨hwin, -, hturn⟩ := h
  refine ⟨hs, evaluateWin_set_ne hwin (other_ne _), ?_⟩
  simp only [takenCount_set _ he, hturn]
  omega

theorem statusAgrees_afterMove {session : Session} (h : MovePending session) : StatusAgrees (afterMove session) := by
  obtain ⟨hs, hopponent, hturn⟩ := h
  rcases board_cases session.board with ⟨p, hwin⟩ | ⟨hwin, hdraw⟩ | ⟨hwin, hdraw⟩
  · rw [afterMove_of_win hwin]
    have hp : p = session.cur := eq_of_ne_other fun hp => hopponent (hp ▸ hwin)
    exact ⟨hwin, hp.symm⟩
  · rw [afterMove_of_draw hwin hdraw]
    exact ⟨hwin, hdraw, hturn.2 (by rw [takenCount_of_draw hdraw])⟩
  · rw [afterMove_of_ongoing hwin hdraw]
    simp only [StatusAgrees, hs]
    refine ⟨hwin, hdraw, ?_⟩
    have hother : other session.cur = .playerH ↔ ¬ session.cur = .playerH := by cases session.cur <;> decide
    rw [hother, hturn]
    omega

theorem Decision.inv {cfg : Config} {pressed : Bool} {h : GameHost} {turn : Turn} (hd : Decision cfg pressed h turn)
    (hinv : h.Inv) : turn.host.Inv := by
  cases hd with
  | boot => exact statusAgrees_start
  | restart => exact statusAgrees_start
  | scan _ hs => exact ⟨hinv, hs⟩
  | resetOnly => exact hinv
  | move session i hp he => exact movePending_of_move hinv.1 hinv.2 he
  | next => exact hinv
  | last => exact hinv.1
  | evaluate => exact statusAgrees_afterMove hinv
  | carryOn => exact hinv

theorem step_keeps_gameInv {s t : State} (h : GameInv s) (hs : step s = .next t) : GameInv t := by
  obtain ⟨g, hg, hinv⟩ := h
  rcases step_host hg hs with ⟨-, ht⟩ | ⟨-, turn, hd, -, ht, -⟩
  · exact ⟨g, ht, hinv⟩
  · exact ⟨_, ht, hd.inv hinv⟩

/-! ### Reachable states -/

theorem Reaches.keeps {P : State → Prop} (hstep : ∀ {s t}, P s → step s = .next t → P t) {s t : State} (h : Reaches s t)
    (hs : P s) : P t := by
  induction h with
  | start => exact hs
  | next _ ht ih => exact hstep ih ht

theorem gameInv_systemReset (cfg : Config) (oracle : Oracle) : GameInv (State.systemReset cfg oracle) := ⟨_, rfl, trivial⟩

theorem statusAgrees_of_cycleTop {s : State} {session : Session} (h : GameInv s) (htop : AtCycleTop s session) :
    StatusAgrees session := by
  obtain ⟨g, hg, hinv⟩ := h
  obtain rfl := Option.some.inj (hg.symm.trans htop.2)
  exact hinv

/-- Settles O53: every decision keeps what the session satisfies at its program point. -/
theorem statusAgreesWithBoard : Obligations.StatusAgreesWithBoard := by
  refine ⟨fun _ _ => step_keeps_gameInv, fun cfg oracle s session hr htop => ?_⟩
  have h := statusAgrees_of_cycleTop (hr.keeps step_keeps_gameInv (gameInv_systemReset cfg oracle)) htop
  unfold StatusAgrees at h
  cases hs : session.status <;> simp only [hs] at h ⊢
  · exact ⟨h.1, h.2.1⟩
  · exact h
  · exact h

/-- Settles O54: the turn clause of `StatusAgrees`. -/
theorem playersAlternate : Obligations.PlayersAlternate := by
  intro cfg oracle s session hr htop hs
  have h := statusAgrees_of_cycleTop (hr.keeps step_keeps_gameInv (gameInv_systemReset cfg oracle)) htop
  simp only [StatusAgrees, hs] at h
  exact h.2.2

end Sys2Proof.Machine

/-! SUPPORT. Runs of waiting commands as a fold over the state, what each command does to a launched system (R133), and the run of
`BOOT` from any state (R125, R168). -/

namespace Sys2Proof.Machine

variable (s : State)

/-! ### Runs as folds -/

theorem run_add {m : Nat} {s t : State} (h : run m s = .next t) (n : Nat) : run (m + n) s = run n t := by
  induction m generalizing s with
  | zero => cases h; rw [Nat.zero_add]
  | succ m ih =>
    obtain ⟨u, hu⟩ := noOperationFails.2 s
    rw [run_succ hu] at h
    rw [Nat.succ_add, run_succ hu, ih h]

/-- The state after the next command, when it is the word of `i`. -/
def State.perform (s : State) (i : Instr) : State :=
  match exec i s.taken with
  | .next t => t
  | _ => s

theorem perform_of_exec {s t : State} {i : Instr} (h : exec i s.taken = .next t) : s.perform i = t := by
  rw [State.perform, h]

theorem exec_taken (i : Instr) : exec i s.taken = .next (s.perform i) := by
  obtain ⟨t, ht⟩ := noOperationFails.1 i s.taken
  rw [ht, perform_of_exec ht]

theorem effect_perform (i : Instr) : Effect s.taken i (s.perform i) := effect_of_exec (exec_taken s i)

/-- The state after a list of commands. -/
def performAll (is : List Instr) (s : State) : State := is.foldl State.perform s

@[simp] theorem performAll_nil : performAll [] s = s := rfl
@[simp] theorem performAll_cons (i : Instr) (is : List Instr) : performAll (i :: is) s = performAll is (s.perform i) := rfl
@[simp] theorem performAll_append (is js : List Instr) : performAll (is ++ js) s = performAll js (performAll is s) :=
  List.foldl_append ..

theorem perform_keeps (i : Instr) : (s.perform i).cfg = s.cfg ∧ (s.perform i).commands = s.commands.tail ∧
    (s.perform i).cp = s.cp + 1 ∧ (s.perform i).host = s.host := exec_keeps (exec_taken s i)

theorem performAll_keeps (is : List Instr) : (performAll is s).cfg = s.cfg ∧
    (performAll is s).commands = s.commands.drop is.length ∧ (performAll is s).cp = s.cp + is.length ∧
    (performAll is s).host = s.host := by
  induction is generalizing s with
  | nil => simp
  | cons i is ih =>
    obtain ⟨hcfg, hcommands, hcp, hhost⟩ := perform_keeps s i
    obtain ⟨icfg, icommands, icp, ihost⟩ := ih (s.perform i)
    refine ⟨icfg.trans hcfg, ?_, ?_, ihost.trans hhost⟩
    · rw [performAll_cons, icommands, hcommands, List.drop_tail, List.length_cons]
    · rw [performAll_cons, icp, hcp, List.length_cons]; ring

/-- Running the words of some operations to their end is performing them. -/
theorem run_performAll {s : State} {is : List Instr} (h : s.commands = is.map encode) :
    run s.commands.length s = .next (performAll is s) := by
  induction is generalizing s with
  | nil => rw [h]; rfl
  | cons i is ih =>
    have hstep : step s = .next (s.perform i) := by
      have hrest : s.commands.tail = is.map encode := by rw [h]; rfl
      rw [← exec_taken, State.taken, hrest]
      exact step_of_command h (decode_encode i)
    have hcommands : (s.perform i).commands = is.map encode := by rw [(perform_keeps s i).2.1, h]; rfl
    rw [run_waiting hstep (by simp [h]), ih hcommands]
    rfl

/-- What every command of a list keeps, the list keeps. -/
theorem performAll_invariant {P : State → Prop} {is : List Instr} (h : ∀ i ∈ is, ∀ s, P s → P (s.perform i)) {s : State}
    (hs : P s) : P (performAll is s) := by
  induction is generalizing s with
  | nil => exact hs
  | cons i is ih => exact ih (fun j hj => h j (List.mem_cons_of_mem i hj)) (h i List.mem_cons_self s hs)

/-- What each command of a list brings about for its own item, and every one keeps, holds in the end of every item. -/
theorem performAll_establishes {α : Type} {command : α → Instr} {P : α → State → Prop} {Q : State → Prop}
    (keepsQ : ∀ a s, Q s → Q (s.perform (command a))) (brings : ∀ a s, Q s → P a (s.perform (command a)))
    (keeps : ∀ a b s, Q s → P a s → P a (s.perform (command b))) {as : List α} {s : State} (hs : Q s) :
    ∀ a ∈ as, P a (performAll (as.map command) s) := by
  induction as generalizing s with
  | nil => simp
  | cons b as ih =>
    intro a ha
    rcases List.mem_cons.1 ha with rfl | ha
    · have hkeep : ∀ i ∈ as.map command, ∀ t, Q t ∧ P a t → Q (t.perform i) ∧ P a (t.perform i) := by
        rw [List.forall_mem_map]
        exact fun c _ t ht => ⟨keepsQ c t ht.1, keeps a c t ht.1 ht.2⟩
      exact (performAll_invariant hkeep ⟨keepsQ a s hs, brings a s hs⟩).2
    · exact ih (keepsQ b s hs) a ha

/-! ### Configured lines and ready channels -/

theorem isInput_effect {s t : State} {i : Instr} {b : ButtonLine} (he : Effect s i t) (h : s.isInput b = true) :
    t.isInput b = true := by
  rw [isInput_iff] at h ⊢
  by_contra hne
  rcases he.dirAt_ne (l := buttonId b) (by rwa [h]) with ⟨f, d, -, hl, -⟩ | ⟨f, c, -, -, -, hs, -⟩
  · exact buttonId_ne_displayId b d hl
  · exact hs h

theorem isOutput_effect {s t : State} {i : Instr} {d : DisplayLine} (he : Effect s i t) (h : s.isOutput d = true) :
    t.isOutput d = true := by
  rw [isOutput_iff] at h ⊢
  by_contra hne
  rcases he.dirAt_ne (l := displayId d) (by rwa [h]) with ⟨f, c, -, -, -, hs, -⟩ | ⟨f, b, -, hl, -⟩
  · exact hs h
  · exact displayId_ne_buttonId d b hl

theorem isInput_perform {s : State} {b : ButtonLine} (h : s.isInput b = true) (i : Instr) :
    (s.perform i).isInput b = true := isInput_effect (effect_perform s i) h

theorem isOutput_perform {s : State} {d : DisplayLine} (h : s.isOutput d = true) (i : Instr) :
    (s.perform i).isOutput d = true := isOutput_effect (effect_perform s i) h

theorem ChannelReady.perform {s : State} {ch : Channel} (h : ChannelReady s ch) (i : Instr) :
    ChannelReady (s.perform i) ch := ChannelReady.effect (effect_perform s i) (h.congr (taken_dir s) (taken_out s))

theorem Launched.perform {s : State} (h : Launched s) (i : Instr) : Launched (s.perform i) :=
  ⟨fun b => isInput_perform (h.buttons b) i, fun ch => (h.channels ch).perform i⟩

theorem Launched.performAll {s : State} (h : Launched s) (is : List Instr) : Launched (performAll is s) :=
  performAll_invariant (fun i _ _ hs => hs.perform i) h

/-! ### The single commands -/

theorem lineField_buttonId_toNat (b : ButtonLine) : (lineField (buttonId b)).toNat = 27 + b.val := by
  revert b; decide

theorem lineField_displayId_toNat (d : DisplayLine) : (lineField (displayId d)).toNat = d.val := by
  revert d; decide

theorem channelField_toNat (ch : Channel) : (channelField ch).toNat = ch.val := by
  revert ch; decide

theorem perform_cfgi (b : ButtonLine) : s.perform (.cfgi (lineField (buttonId b))) = configureAsInput b s.taken :=
  perform_of_exec (exec_cfgi_of_val _ (lineField_buttonId_toNat b))

theorem perform_cfgo (d : DisplayLine) : s.perform (.cfgo (lineField (displayId d))) = configureAsOutput d s.taken :=
  perform_of_exec (exec_cfgo_of_val _ (lineField_displayId_toNat d))

theorem perform_init {s : State} (h : ∀ d, s.isOutput d = true) (ch : Channel) :
    s.perform (.init (channelField ch)) = initChannel ch s.taken :=
  perform_of_exec (exec_init_of_outputs _ (channelField_toNat ch) (h _) (h _) (h _))

theorem perform_renderCell {s : State} (h : Launched s) (cfg : Config) (cell : Cell) (ch : Channel) :
    s.perform (renderCell cfg cell ch) = writeSegment ch (glyph cfg cell) s.taken :=
  perform_of_exec (exec_wseg_of_outputs _ _ (channelField_toNat ch) (h.channels ch).data (h.channels ch).clock)

theorem perform_pressed {s : State} (h : Launched s) (b : ButtonLine) : s.perform (pressedCommand b) = isPressed b s.taken :=
  perform_of_exec (exec_pressed_of_input (lineField_buttonId_toNat b) ((isInput_iff s b).1 (h.buttons b)))

theorem perform_await {s : State} (h : Launched s) (cfg : Config) (b : ButtonLine) :
    s.perform (awrelCommand cfg b) = pollRelease b cfg.tRelease.toNat s.taken :=
  perform_of_exec (exec_awrel_of_input _ (lineField_buttonId_toNat b) ((isInput_iff s b).1 (h.buttons b)))

theorem perform_delay (n : BitVec 16) : s.perform (.delay n) = delay n.toNat s.taken := perform_of_exec (exec_delay _ n)

/-! ### Operating commands on a launched system -/

/-- On a launched system no command of R133 is refused. -/
theorem perform_refused {s : State} (h : Launched s) {cfg : Config} {i : Instr} (hi : Operating cfg i) :
    (s.perform i).refused = s.refused := by
  cases hi with
  | pressed b => rw [perform_pressed h]; exact (isPressed_frame s.taken b).refused
  | write ch cell => rw [perform_renderCell h]; exact (writeSegment_frame s.taken ch _).refused
  | await b => rw [perform_await h]; exact (pollRelease_frame s.taken b _).refused
  | hold => rw [perform_delay]; rfl

theorem performAll_refused {s : State} (h : Launched s) {cfg : Config} {is : List Instr} (his : ∀ i ∈ is, Operating cfg i) :
    (performAll is s).refused = s.refused :=
  (performAll_invariant (P := fun t => Launched t ∧ t.refused = s.refused)
    (fun i hi _ ht => ⟨ht.1.perform i, (perform_refused ht.1 (his i hi)).trans ht.2⟩) ⟨h, rfl⟩).2

/-- What one command writes into the register of a ready channel: nothing, or the whole code (R84). -/
def written (ch : Channel) (r : Stages) : Instr → Stages
  | .wseg c code => if c = channelField ch then codeStages code else r
  | _ => r

theorem channelField_inj {c d : Channel} : channelField c = channelField d ↔ c = d := by
  revert c d; decide

theorem written_renderCell (cfg : Config) (cell : Cell) (c ch : Channel) (r : Stages) :
    written ch r (renderCell cfg cell c) = if c = ch then codeStages (glyph cfg cell) else r := by
  simp [written, renderCell, channelField_inj]

theorem srAt_of_sr {s t : State} (h : t.sr = s.sr) (ch : Channel) : t.srAt ch = s.srAt ch := by
  simp only [State.srAt, h]

theorem perform_srAt {s : State} (h : Launched s) {cfg : Config} {i : Instr} (hi : Operating cfg i) (ch : Channel) :
    (s.perform i).srAt ch = written ch (s.srAt ch) i := by
  cases hi with
  | pressed b =>
    rw [perform_pressed h, srAt_of_sr (isPressed_frame s.taken b).sr, srAt_taken]
    rfl
  | write c cell =>
    rw [perform_renderCell h, written_renderCell]
    split
    case isTrue hc => subst hc; exact writeSegment_srAt_ready (s := s.taken) (h.channels c).clockLow (h.channels c).resetHigh _
    case isFalse hc => rw [(writeSegment_frame s.taken c _).sr ch (Ne.symm hc), srAt_taken]
  | await b =>
    rw [perform_await h, srAt_of_sr (pollRelease_frame s.taken b _).sr, srAt_taken]
    rfl
  | hold => rw [perform_delay, srAt_delay, srAt_taken]; rfl

theorem performAll_srAt {s : State} (h : Launched s) {cfg : Config} {is : List Instr} (his : ∀ i ∈ is, Operating cfg i)
    (ch : Channel) : (performAll is s).srAt ch = is.foldl (written ch) (s.srAt ch) := by
  induction is generalizing s with
  | nil => rfl
  | cons i is ih =>
    obtain ⟨hi, his⟩ := List.forall_mem_cons.1 his
    rw [performAll_cons, ih (h.perform i) his, perform_srAt h hi]
    rfl

theorem mem_channels (ch : Channel) : ch ∈ channels := by revert ch; decide

/-- A write to every channel decides every display. -/
theorem foldl_written_writes (cfg : Config) (cell : Channel → Cell) (ch : Channel) (r : Stages) :
    (channels.map fun c => renderCell cfg (cell c) c).foldl (written ch) r = codeStages (glyph cfg (cell ch)) := by
  have general : ∀ (l : List Channel) (r : Stages), (l.map fun c => renderCell cfg (cell c) c).foldl (written ch) r =
      if ch ∈ l then codeStages (glyph cfg (cell ch)) else r := by
    intro l
    induction l with
    | nil => simp
    | cons c l ih =>
      intro r
      rw [List.map_cons, List.foldl_cons, ih, written_renderCell]
      by_cases hl : ch ∈ l <;> by_cases hc : c = ch <;> simp [hl, hc, eq_comm (a := ch)]
  rw [general, if_pos (mem_channels ch)]

theorem foldl_written_flashOnce (cfg : Config) (board : Board) (ch : Channel) (r : Stages) :
    (flashOnce cfg board).foldl (written ch) r = codeStages (glyph cfg (cellAt board ch)) := by
  simp only [flashOnce, List.foldl_append, List.foldl_cons, List.foldl_nil, restoreAllCommands, foldl_written_writes, written]

/-- The flash leaves every display with its cell, if it flashes at all (R130). -/
theorem foldl_written_flash (cfg : Config) (board : Board) (ch : Channel) (r : Stages) :
    (flashCommands cfg board).foldl (written ch) r =
      if cfg.nFlash = 0 then r else codeStages (glyph cfg (cellAt board ch)) := by
  unfold flashCommands
  cases cfg.nFlash with
  | zero => rfl
  | succ n =>
    rw [List.replicate_succ', List.flatten_append, List.foldl_append]
    simp [foldl_written_flashOnce]

/-! ### `BOOT` -/

/-- The ten button lines, in the order in which `BOOT` configures them (D24). -/
def buttons : List ButtonLine := channels.map cellButton ++ [resetButton]

/-- The 27 display lines, in the order in which `BOOT` configures them (D24). -/
def displayLines : List DisplayLine := channels.flatMap fun ch => [dataLine ch, clockLine ch, resetLine ch]

theorem bootCommands_eq : bootCommands = buttons.map (fun b => .cfgi (lineField (buttonId b))) ++
    displayLines.map (fun d => .cfgo (lineField (displayId d))) ++ channels.map (fun ch => .init (channelField ch)) := rfl

theorem mem_buttons (b : ButtonLine) : b ∈ buttons := by revert b; decide

theorem mem_displayLines (d : DisplayLine) : d ∈ displayLines := by revert d; decide

/-- A channel right after an `INIT` (R81, R84). -/
structure Blanked (s : State) (ch : Channel) : Prop where
  ready : ChannelReady s ch
  dataLow : s.outAt (dataLine ch) = some false
  cleared : s.srAt ch = clearedStages

theorem blanked_perform_init {s : State} (h : ∀ d, s.isOutput d = true) (ch : Channel) :
    Blanked (s.perform (.init (channelField ch))) ch := by
  have houtput : ∀ d, (s.perform (.init (channelField ch))).isOutput d = true := fun d => isOutput_perform (h d) _
  rw [perform_init h] at houtput ⊢
  exact ⟨⟨houtput _, houtput _, houtput _, by simp [initChannel_outAt], by simp [initChannel_outAt]⟩,
    by simp [initChannel_outAt], initChannel_srAt _ ch⟩

theorem Blanked.perform_init {s : State} {ch : Channel} (hb : Blanked s ch) (h : ∀ d, s.isOutput d = true) (c : Channel) :
    Blanked (s.perform (.init (channelField c))) ch := by
  by_cases hc : ch = c
  · subst hc; exact blanked_perform_init h ch
  · have hready := hb.ready.perform (.init (channelField c))
    rw [Machine.perform_init h] at hready ⊢
    exact ⟨hready, by simp [initChannel_outAt, hc, hb.dataLow], ((initChannel_frame s.taken c).sr ch hc).trans hb.cleared⟩

theorem isInput_performAll_cfgi (b : ButtonLine) :
    (performAll (buttons.map fun b => .cfgi (lineField (buttonId b))) s).isInput b = true :=
  performAll_establishes (P := fun b t => t.isInput b = true) (Q := fun _ => True) (fun _ _ _ => trivial)
    (fun b t _ => by simp [perform_cfgi, isInput_iff, configureAsInput_dirAt]) (fun _ _ _ _ h => isInput_perform h _)
    trivial b (mem_buttons b)

theorem isOutput_performAll_cfgo (d : DisplayLine) :
    (performAll (displayLines.map fun d => .cfgo (lineField (displayId d))) s).isOutput d = true :=
  performAll_establishes (P := fun d t => t.isOutput d = true) (Q := fun _ => True) (fun _ _ _ => trivial)
    (fun d t _ => by simp [perform_cfgo, isOutput_iff, configureAsOutput_dirAt]) (fun _ _ _ _ h => isOutput_perform h _)
    trivial d (mem_displayLines d)

theorem isInput_performAll {s : State} {b : ButtonLine} (h : s.isInput b = true) (is : List Instr) :
    (performAll is s).isInput b = true :=
  performAll_invariant (P := fun t => t.isInput b = true) (fun i _ _ ht => isInput_perform ht i) h

theorem blanked_performAll_init {s : State} (h : ∀ d, s.isOutput d = true) (ch : Channel) :
    Blanked (performAll (channels.map fun ch => .init (channelField ch)) s) ch :=
  performAll_establishes (P := fun ch t => Blanked t ch) (Q := fun t => ∀ d, t.isOutput d = true)
    (fun _ _ h d => isOutput_perform (h d) _) (fun ch _ h => blanked_perform_init h ch)
    (fun _ c _ h hb => hb.perform_init h c) h ch (mem_channels ch)

/-- The three phases of `BOOT` bring about inputs, outputs and blank channels, from any state (R168). -/
theorem performAll_boot : (∀ b, (performAll bootCommands s).isInput b = true) ∧
    ∀ ch, Blanked (performAll bootCommands s) ch := by
  rw [bootCommands_eq, performAll_append, performAll_append]
  exact ⟨fun b => isInput_performAll (isInput_performAll (isInput_performAll_cfgi s b) _) _,
    blanked_performAll_init (isOutput_performAll_cfgo _)⟩

theorem performAll_boot_refused : (performAll bootCommands s).refused = s.refused := by
  rw [bootCommands_eq, performAll_append, performAll_append]
  have hinputs := performAll_invariant (P := fun t => t.refused = s.refused)
    (is := buttons.map fun b => .cfgi (lineField (buttonId b)))
    (List.forall_mem_map.2 fun b _ t ht => by simpa [perform_cfgi] using ht) rfl
  have houtputs := performAll_invariant (P := fun t => t.refused = s.refused)
    (is := displayLines.map fun d => .cfgo (lineField (displayId d)))
    (List.forall_mem_map.2 fun d _ t ht => by simpa [perform_cfgo] using ht) hinputs
  refine (performAll_invariant (P := fun t => (∀ d, t.isOutput d = true) ∧ t.refused = s.refused)
    (List.forall_mem_map.2 fun c _ t ⟨hout, ht⟩ => ⟨fun d => isOutput_perform (hout d) _, ?_⟩)
    ⟨isOutput_performAll_cfgo _, houtputs⟩).2
  rw [perform_init hout]
  exact (initChannel_frame t.taken c).refused.trans ht

theorem launched_boot : Launched (performAll bootCommands s) := by
  obtain ⟨hin, hblank⟩ := performAll_boot s
  exact ⟨hin, fun ch => (hblank ch).ready⟩

end Sys2Proof.Machine

/-! SUPPORT. The whole system (R125 to R134, R168): a turn of the host with the commands it issues, the invariants that follow, and the
runs of `BOOT`, of the flash and of an outer cycle. -/

namespace Sys2Proof.Machine

variable (s : State)

/-! ### A turn and its commands -/

/-- A launched system stays launched through a turn's commands, and `BOOT` launches any state; none is refused. -/
theorem Decision.performs {cfg : Config} {pressed : Bool} {h : GameHost} {turn : Turn} (hd : Decision cfg pressed h turn)
    {u : State} (hu : h.phase ≠ .boot → Launched u) :
    Launched (performAll turn.issues u) ∧ (performAll turn.issues u).refused = u.refused := by
  by_cases hb : h.phase = .boot
  · cases hd <;> cases hb
    exact ⟨launched_boot u, performAll_boot_refused u⟩
  · exact ⟨(hu hb).performAll _, performAll_refused (hu hb) (hd.operating hb)⟩

/-- What the displays show after the commands of a turn is what the turn's session wants (R111, R128 to R132). -/
theorem Decision.shows {cfg : Config} {pressed : Bool} {h : GameHost} {turn : Turn} (hd : Decision cfg pressed h turn)
    (hinv : h.Inv) {u : State}
    (hu : h.phase ≠ .boot → Launched u ∧ ∀ ch, u.srAt ch = codeStages (shownGlyph cfg h.session ch)) (ch : Channel) : (performAll turn.issues u).srAt ch = codeStages (shownGlyph cfg turn.host.session ch) := by
  by_cases hb : h.phase = .boot
  · cases hd <;> cases hb
    have hblank : shownGlyph cfg Session.start ch = Config.blank := by revert ch; simp [shownGlyph, Session.start, cellAt, glyph]
    rw [hblank, codeStages_blank, ((performAll_boot u).2 ch).cleared]
  · obtain ⟨hl, hshown⟩ := hu hb
    rw [performAll_srAt hl (hd.operating hb), hshown ch]
    cases hd with
    | boot => exact absurd rfl hb
    | scan | resetOnly | next | last | carryOn => rfl
    | move session i hp he =>
      have hs : session.status = .inProgress := hinv.2
      have hawait : ∀ r, written ch r (awrelCommand cfg (cellButton i)) = r := fun _ => rfl
      simp only [List.foldl_cons, List.foldl_nil, hawait, written_renderCell, shownGlyph, hs, cellAt_set, eq_comm (a := i)]
      split <;> rfl
    | evaluate session =>
      have hs : session.status = .inProgress := hinv.status
      have hpressed : ∀ r, written ch r (pressedCommand resetButton) = r := fun _ => rfl
      simp only [sampleReset, List.foldl_append, List.foldl_cons, List.foldl_nil, hpressed]
      rcases board_cases session.board with ⟨p, hwin⟩ | ⟨hwin, hdraw⟩ | ⟨hwin, hdraw⟩
      · simp only [afterMove_of_win hwin, celebrate, shownGlyph]
        exact foldl_written_writes cfg (fun _ => .taken p) ch _
      · simp only [afterMove_of_draw hwin hdraw, celebrate, shownGlyph, hs, foldl_written_flash, ite_self]
      · simp only [afterMove_of_ongoing hwin hdraw, celebrate, shownGlyph, hs, List.foldl_nil]
    | restart session hp =>
      have hawait : ∀ r, written ch r (awrelCommand cfg resetButton) = r := fun _ => rfl
      rw [List.foldl_append, List.foldl_cons, List.foldl_nil, hawait]
      refine (foldl_written_writes cfg (fun _ => .empty) ch _).trans ?_
      simp [shownGlyph, Session.start, cellAt, glyph]

/-! ### The invariants of the host -/

theorem step_keeps_commandsInv {s t : State} (h : CommandsInv s) (hs : step s = .next t) : CommandsInv t := by
  obtain ⟨g, u, hg, hrun, hclean, hlaunched⟩ := h
  rcases step_host hg hs with ⟨hc, ht⟩ | ⟨hc, turn, hd, rfl, ht, hissues⟩
  · exact ⟨g, u, ht, (run_waiting hs hc).symm.trans hrun, hclean, hlaunched⟩
  · rw [hc] at hrun
    obtain rfl : s = u := Host.Outcome.next.inj hrun
    obtain ⟨hl, hr⟩ := hd.performs (u := betweenCommands s) fun hb =>
      (hlaunched hb).congr (betweenCommands_dir s) (betweenCommands_out s)
    exact ⟨_, _, ht, run_performAll hissues, by rw [hr, betweenCommands_refused, hclean], fun _ => hl⟩

theorem step_cfg {s t : State} (hs : step s = .next t) : t.cfg = s.cfg := by
  obtain ⟨_, -, -, hcfg, -⟩ := stepOnlyExtendsHistory s t hs
  exact hcfg

theorem step_keeps_displaysInv {s t : State} (h : DisplaysInv s) (hs : step s = .next t) : DisplaysInv t := by
  obtain ⟨g, u, hg, hinv, hrun, hclean, hlaunched⟩ := h
  rcases step_host hg hs with ⟨hc, ht⟩ | ⟨hc, turn, hd, rfl, ht, hissues⟩
  · exact ⟨g, u, ht, hinv, (run_waiting hs hc).symm.trans hrun, hclean, by rwa [step_cfg hs]⟩
  · rw [hc] at hrun
    obtain rfl : s = u := Host.Outcome.next.inj hrun
    have hl : g.phase ≠ .boot → Launched (betweenCommands s) := fun hb =>
      (hlaunched hb).1.congr (betweenCommands_dir s) (betweenCommands_out s)
    obtain ⟨hl', hr⟩ := hd.performs hl
    refine ⟨_, _, ht, hd.inv hinv, run_performAll hissues, by rw [hr, betweenCommands_refused, hclean],
      fun _ => ⟨hl', ?_⟩⟩
    rw [betweenCommands_cfg]
    exact hd.shows hinv fun hb => ⟨hl hb, fun ch => by rw [srAt_of_sr (betweenCommands_sr s), (hlaunched hb).2 ch]⟩

theorem commandsInv_systemReset (cfg : Config) (oracle : Oracle) : CommandsInv (State.systemReset cfg oracle) :=
  ⟨_, _, rfl, rfl, rfl, fun h => absurd rfl h⟩

theorem displaysInv_systemReset (cfg : Config) (oracle : Oracle) : DisplaysInv (State.systemReset cfg oracle) :=
  ⟨_, _, rfl, trivial, rfl, rfl, fun h => absurd rfl h⟩

theorem linesInv_powerOn (cfg : Config) (oracle : Oracle) : LinesInv (State.powerOn cfg oracle) := by
  constructor <;> simp [State.powerOn, State.dirAt, State.outAt]

/-- Settles O11: the invariants of the host ask nothing of the block at process start. -/
theorem invariantsHoldAfterReset : Obligations.InvariantsHoldAfterReset :=
  fun cfg oracle => ⟨linesInv_powerOn cfg oracle, rfl, gameInv_systemReset cfg oracle, commandsInv_systemReset cfg oracle,
    displaysInv_systemReset cfg oracle⟩

theorem run_keeps {P : State → Prop} (hstep : ∀ {s t}, P s → step s = .next t → P t) {n : Nat} {s t : State}
    (h : run n s = .next t) (hs : P s) : P t := by
  induction n generalizing s with
  | zero => cases h; exact hs
  | succ n ih =>
    obtain ⟨u, hu⟩ := noOperationFails.2 s
    exact ih (by rwa [run_succ hu] at h) (hstep hs hu)

/-- A refusal now would still stand at the end of the waiting commands. -/
theorem refused_of_commandsInv {s : State} (h : CommandsInv s) : s.refused = none := by
  obtain ⟨g, t, -, hrun, hclean, -⟩ := h
  by_contra hne
  obtain ⟨r, hr⟩ := Option.ne_none_iff_exists'.1 hne
  have ht := run_keeps (P := fun u => u.refused = some r) (fun hu hs => (refusalMarkIsSticky _ _ r hu hs).1) hrun hr
  cases ht.symm.trans hclean

/-- Settles O51: one turn's commands run without a refusal and launch the system; a refusal would stand to the end of a run. -/
theorem hostIsNeverRefused : Obligations.HostIsNeverRefused :=
  ⟨fun _ _ => step_keeps_commandsInv, fun cfg oracle _ hr =>
    refused_of_commandsInv (hr.keeps step_keeps_commandsInv (commandsInv_systemReset cfg oracle))⟩

/-- Settles O52: one turn's writes bring the displays from the old session to the new one; at a cycle's top nothing waits. -/
theorem displaysShowTheGame : Obligations.DisplaysShowTheGame := by
  refine ⟨fun _ _ => step_keeps_displaysInv, fun cfg oracle s session hr ⟨hc, hh⟩ => ?_⟩
  have hcfg : s.cfg = cfg := hr.keeps (P := fun t => t.cfg = cfg) (fun ht hs => (step_cfg hs).trans ht) rfl
  obtain ⟨g, u, hg, -, hrun, -, hshown⟩ := hr.keeps step_keeps_displaysInv (displaysInv_systemReset cfg oracle)
  rw [hc] at hrun
  obtain rfl : s = u := Host.Outcome.next.inj hrun
  obtain rfl := Option.some.inj (hg.symm.trans hh)
  rw [← hcfg]
  exact (hshown Phase.noConfusion).2

/-! ### `BOOT` from power-on (R168) -/

theorem step_keeps_time {s t : State} (h : s.time = delaySum s.trace) (hs : step s = .next t) : t.time = delaySum t.trace := by
  obtain ⟨es, htrace, htime, -⟩ := stepOnlyExtendsHistory s t hs
  rw [htrace, htime, delaySum_append, h]

/-- Configuring inputs that are none yet: one event each. -/
theorem performAll_cfgi_trace {bs : List ButtonLine} {s : State} (hnodup : bs.Nodup)
    (h : ∀ b ∈ bs, s.dirAt (buttonId b) ≠ .input) :
    (performAll (bs.map fun b => .cfgi (lineField (buttonId b))) s).trace =
      s.trace ++ bs.map fun b => .cfg (buttonId b) .input := by
  induction bs generalizing s with
  | nil => simp
  | cons b bs ih =>
    obtain ⟨hb, hnodup⟩ := List.nodup_cons.1 hnodup
    obtain ⟨hfirst, hrest⟩ := List.forall_mem_cons.1 h
    rw [List.map_cons, performAll_cons, perform_cfgi, ih hnodup, configureAsInput_new s.taken b hfirst]
    · simp
    · intro c hc
      have hne : c ≠ b := by rintro rfl; exact hb hc
      simpa [configureAsInput_dirAt, hne] using hrest c hc

/-- Configuring outputs that are none yet: one event each. -/
theorem performAll_cfgo_trace {ds : List DisplayLine} {s : State} (hnodup : ds.Nodup)
    (h : ∀ d ∈ ds, s.dirAt (displayId d) ≠ .output) :
    (performAll (ds.map fun d => .cfgo (lineField (displayId d))) s).trace =
      s.trace ++ ds.map fun d => .cfg (displayId d) .output := by
  induction ds generalizing s with
  | nil => simp
  | cons d ds ih =>
    obtain ⟨hd, hnodup⟩ := List.nodup_cons.1 hnodup
    obtain ⟨hfirst, hrest⟩ := List.forall_mem_cons.1 h
    rw [List.map_cons, performAll_cons, perform_cfgo, ih hnodup, configureAsOutput_new s.taken d hfirst]
    · simp
    · intro c hc
      have hne : c ≠ d := by rintro rfl; exact hd hc
      simpa [configureAsOutput_dirAt, hne] using hrest c hc

theorem performAll_init_trace {s : State} (h : ∀ d, s.isOutput d = true) (chs : List Channel) :
    (performAll (chs.map fun ch => .init (channelField ch)) s).trace = s.trace ++ chs.flatMap (initEvents s.cfg) := by
  induction chs generalizing s with
  | nil => simp
  | cons ch chs ih =>
    rw [List.map_cons, performAll_cons, ih fun d => isOutput_perform (h d) _, perform_init h, initChannel_trace,
      (initChannel_frame s.taken ch).cfg]
    simp

/-- The events by which `BOOT` configures the lines. -/
def bootConfigEvents : List Event :=
  buttons.map (fun b => .cfg (buttonId b) .input) ++ displayLines.map fun d => .cfg (displayId d) .output

/-- The trace of `BOOT` on a block with no line configured. -/
theorem performAll_boot_trace {s : State} (h : ∀ l, s.dirAt l = .unconfigured) :
    (performAll bootCommands s).trace = s.trace ++ bootConfigEvents ++ channels.flatMap (initEvents s.cfg) := by
  have hdisplay : ∀ d, (performAll (buttons.map fun b => .cfgi (lineField (buttonId b))) s).dirAt (displayId d) ≠ .output :=
    fun d => performAll_invariant (P := fun t => t.dirAt (displayId d) ≠ .output)
      (List.forall_mem_map.2 fun b _ t ht => by simpa [perform_cfgi, configureAsInput_dirAt] using ht) (by simp [h])
  rw [bootCommands_eq, performAll_append, performAll_append, performAll_init_trace (isOutput_performAll_cfgo _),
    performAll_cfgo_trace (by decide) fun d _ => hdisplay d, performAll_cfgi_trace (by decide) fun b _ => by simp [h],
    (performAll_keeps _ _).1, (performAll_keeps _ _).1]
  simp [bootConfigEvents]

theorem performAll_boot_res : (performAll bootCommands s).res = s.res := by
  have hnone : ∀ l, Instr.pressed l ∉ bootCommands := by simp [bootCommands_eq]
  refine performAll_invariant (P := fun t => t.res = s.res) (fun i hi t ht => ?_) rfl
  by_contra hne
  obtain ⟨-, l, rfl⟩ := (effect_perform t i).res_ne (by rwa [taken_res, ht])
  exact hnone l hi

theorem delaySum_initEvents (cfg : Config) (ch : Channel) : delaySum (initEvents cfg ch) = cfg.tMr + 16 * cfg.tClk := by
  simp [initEvents, writeEvents, delaySum]; ring

theorem delaySum_boot (cfg : Config) :
    delaySum (bootConfigEvents ++ channels.flatMap (initEvents cfg)) = 9 * (cfg.tMr + 16 * cfg.tClk) := by
  have hcfg : delaySum bootConfigEvents = 0 := by decide
  simp only [channels, List.flatMap_cons, List.flatMap_nil, delaySum_append, delaySum_initEvents, hcfg, delaySum]
  ring

theorem length_initEvents_boot (cfg : Config) : (channels.flatMap (initEvents cfg)).length = 387 := by
  have hlength : ∀ ch, (initEvents cfg ch).length = 43 := fun _ => rfl
  simp [channels, hlength]

/-- Settles O49: the three phases of `BOOT`, each by induction on its list; `TIME` is the sum of the delays in the trace. -/
theorem bootReachesLaunchState : Obligations.BootReachesLaunchState := by
  intro cfg oracle
  have hturn := step_of_idle (s := State.systemReset cfg oracle) rfl
  generalize hu : betweenCommands (State.systemReset cfg oracle) = u at hturn
  have hcommands : u.commands = bootCommands.map encode := by subst hu; rfl
  have hrun : run 47 (State.systemReset cfg oracle) = .next (performAll bootCommands u) := by
    rw [run_succ hturn, ← run_performAll hcommands, hcommands, List.length_map]; rfl
  have hdir : ∀ l, u.dirAt l = .unconfigured := fun l => by
    subst hu; simp [State.dirAt, State.systemReset, State.powerOn]
  have htrace : (performAll bootCommands u).trace = bootConfigEvents ++ channels.flatMap (initEvents cfg) := by
    rw [performAll_boot_trace hdir]; subst hu; rfl
  have htime := run_keeps step_keeps_time hrun rfl
  obtain ⟨hcfg, hrest, hcp, hhost⟩ := performAll_keeps u bootCommands
  obtain ⟨hin, hblank⟩ := performAll_boot u
  refine ⟨_, hrun, fun l => ?_, fun b => (isInput_iff _ b).1 (hin b), fun ch => ?_, ?_, ?_, ?_, ?_,
    ⟨_, _, htrace, rfl, ?_, rfl, length_initEvents_boot cfg⟩, ?_, ?_⟩
  · obtain ⟨hd, hc, hr, -, -⟩ := (hblank (lineChannel l)).ready
    rw [isOutput_iff] at hd hc hr
    rcases displayLine_cases l with h | h | h
    · rw [h]; exact hd
    · rw [h]; exact hc
    · rw [h]; exact hr
  · exact ⟨(hblank ch).dataLow, (hblank ch).ready.clockLow, (hblank ch).ready.resetHigh,
      (hblank ch).cleared.trans codeStages_blank.symm⟩
  · rw [performAll_boot_res]; subst hu; rfl
  · rw [htime, htrace, delaySum_boot]
  · rw [performAll_boot_refused]; subst hu; rfl
  · rw [hcp]; subst hu; rfl
  · exact List.forall_mem_append.2 ⟨List.forall_mem_map.2 fun b _ => ⟨_, _, rfl⟩,
      List.forall_mem_map.2 fun d _ => ⟨_, _, rfl⟩⟩
  · rw [hrest, hcommands, List.drop_eq_nil_of_le (by simp)]
  · rw [hhost]; subst hu; rfl

/-! ### The flash (R130) -/

/-- The nominal time of a write or a delay (R80, R102). -/
def nominalTime (cfg : Config) : Instr → Nat
  | .wseg _ _ => 16 * cfg.tClk
  | .delay n => n.toNat
  | _ => 0

/-- A command of the flash: a write of a glyph or a hold. -/
def IsFlashCommand (cfg : Config) (i : Instr) : Prop :=
  (∃ ch cell, i = renderCell cfg cell ch) ∨ i = .delay cfg.tFlash

theorem isFlashCommand_of_mem {cfg : Config} {board : Board} {i : Instr} (h : i ∈ flashCommands cfg board) :
    IsFlashCommand cfg i := by
  obtain ⟨once, honce, hi⟩ := List.mem_flatten.1 h
  obtain rfl := List.eq_of_mem_replicate honce
  simp only [flashOnce, blankAllCommands, restoreAllCommands, List.mem_append, List.mem_singleton, List.mem_map] at hi
  rcases hi with ((⟨ch, -, rfl⟩ | rfl) | ⟨ch, -, rfl⟩) | rfl
  · exact .inl ⟨ch, _, rfl⟩
  · exact .inr rfl
  · exact .inl ⟨ch, _, rfl⟩
  · exact .inr rfl

theorem perform_flashCommand {s : State} (h : Launched s) {i : Instr} {cfg : Config} (hi : IsFlashCommand cfg i) :
    (s.perform i).time = s.time + nominalTime s.cfg i ∧
      ∃ es, (s.perform i).trace = s.trace ++ es ∧ sampleCount es = 0 := by
  rcases hi with ⟨ch, cell, rfl⟩ | rfl
  · rw [perform_renderCell h, writeSegment_time, writeSegment_trace]
    exact ⟨rfl, _, rfl, rfl⟩
  · rw [perform_delay]
    exact ⟨rfl, _, rfl, rfl⟩

theorem performAll_flashCommands {s : State} (h : Launched s) {is : List Instr} {cfg : Config}
    (his : ∀ i ∈ is, IsFlashCommand cfg i) : (performAll is s).time = s.time + (is.map (nominalTime s.cfg)).sum ∧
      ∃ es, (performAll is s).trace = s.trace ++ es ∧ sampleCount es = 0 := by
  induction is generalizing s with
  | nil => exact ⟨rfl, [], by simp, rfl⟩
  | cons i is ih =>
    obtain ⟨hi, his⟩ := List.forall_mem_cons.1 his
    obtain ⟨htime, es, htrace, hcount⟩ := perform_flashCommand h hi
    obtain ⟨itime, fs, itrace, icount⟩ := ih (h.perform i) his
    refine ⟨?_, es ++ fs, ?_, by rw [sampleCount_append, hcount, icount]⟩
    · rw [performAll_cons, itime, htime, (perform_keeps s i).1, List.map_cons, List.sum_cons, Nat.add_assoc]
    · rw [performAll_cons, itrace, htrace, List.append_assoc]

theorem length_flashCommands (cfg : Config) (board : Board) : (flashCommands cfg board).length = 20 * cfg.nFlash := by
  simp [flashCommands, flashOnce, blankAllCommands, restoreAllCommands, channels, Nat.mul_comm]

theorem nominalTime_flashCommands (cfg : Config) (board : Board) : ((flashCommands cfg board).map (nominalTime cfg)).sum =
    cfg.nFlash * (2 * (144 * cfg.tClk + cfg.tFlash.toNat)) := by
  have hwrites : ∀ cell : Channel → Cell,
      ((channels.map fun ch => renderCell cfg (cell ch) ch).map (nominalTime cfg)).sum = 144 * cfg.tClk := by
    intro cell
    simp only [channels, List.map_cons, List.map_nil, List.sum_cons, List.sum_nil, renderCell, nominalTime]
    ring
  have honce : ((flashOnce cfg board).map (nominalTime cfg)).sum = 2 * (144 * cfg.tClk + cfg.tFlash.toNat) := by
    have hblank := hwrites fun _ => .empty
    have hrestore := hwrites (cellAt board)
    simp only [flashOnce, blankAllCommands, restoreAllCommands, List.map_append, List.sum_append, hblank, hrestore,
      List.map_cons, List.map_nil, List.sum_cons, List.sum_nil, nominalTime]
    ring
  simp only [flashCommands, List.map_flatten, List.sum_flatten, List.map_replicate, List.sum_replicate, honce, smul_eq_mul]

/-- Settles O59: the flash as a list of writes and holds on a launched system. -/
theorem flashRestoresEveryDisplay : Obligations.FlashRestoresEveryDisplay := by
  intro s board hl hcommands
  have hoperating := operating_flash s.cfg board
  have hrun := run_performAll hcommands
  rw [hcommands, List.length_map, length_flashCommands] at hrun
  obtain ⟨htime, es, htrace, hcount⟩ := performAll_flashCommands hl fun _ => isFlashCommand_of_mem (board := board)
  refine ⟨_, hrun, ?_, hl.performAll _, performAll_refused hl hoperating, ?_, ?_, fun hn ch => ?_⟩
  · rw [(performAll_keeps _ _).2.1, hcommands, List.drop_eq_nil_of_le (by simp)]
  · rw [htime, nominalTime_flashCommands]
  · rw [newEvents_of_trace htrace, hcount]
  · rw [performAll_srAt hl hoperating, foldl_written_flash, if_neg hn]

/-! ### The outer cycle (R134) -/

/-- One turn of a launched host and the run of what it issues. -/
theorem run_turn {s : State} {h : GameHost} (hl : Launched s) (hc : s.commands = []) (hh : s.host = some h) :
    ∃ n t turn, 1 ≤ n ∧ run n s = .next t ∧ Launched t ∧ t.commands = [] ∧
      Decision s.cfg s.pressedFlag h turn ∧ t.host = some turn.host := by
  have hissues := betweenCommands_commands s hh
  obtain ⟨-, hrest, -, hhost⟩ := performAll_keeps (betweenCommands s) (hostTurn s.cfg s.pressedFlag h).issues
  refine ⟨1 + (betweenCommands s).commands.length, performAll (hostTurn s.cfg s.pressedFlag h).issues (betweenCommands s), _,
    Nat.le_add_right .., ?_,
    (hl.congr (betweenCommands_dir s) (betweenCommands_out s)).performAll _, ?_, decision_hostTurn _ _ h, ?_⟩
  · rw [run_add (run_succ (step_of_idle hc) 0), run_performAll hissues]
  · rw [hrest, hissues, List.drop_eq_nil_of_le (by simp)]
  · rw [hhost, betweenCommands_host s hh]

/-- How many turns the top of a cycle is away at most. -/
def Phase.turnsLeft : Phase → Nat
  | .boot => 0
  | .cycle => 0
  | .resetSampled => 1
  | .moved => 2
  | .scanned i => 11 - i.val

theorem Decision.turnsLeft_lt {cfg : Config} {pressed : Bool} {h : GameHost} {turn : Turn} (hd : Decision cfg pressed h turn)
    (hpos : 0 < h.phase.turnsLeft) : turn.host.phase.turnsLeft < h.phase.turnsLeft := by
  cases hd with
  | boot | scan | resetOnly => exact absurd hpos (Nat.lt_irrefl 0)
  | next _ i j _ hj => simp only [Phase.turnsLeft]; omega
  | move | last => simp only [Phase.turnsLeft, sampleReset]; omega
  | evaluate | restart | carryOn => simp [Phase.turnsLeft, sampleReset]

theorem phase_eq_cycle {p : Phase} (hb : p ≠ .boot) (h : p.turnsLeft = 0) : p = .cycle := by
  cases p with
  | boot => exact absurd rfl hb
  | cycle => rfl
  | scanned i => simp only [Phase.turnsLeft] at h; omega
  | moved | resetSampled => cases h

/-- Turn by turn a launched host comes to the top of a cycle. -/
theorem run_to_cycleTop {s : State} {h : GameHost} (hl : Launched s) (hc : s.commands = []) (hh : s.host = some h)
    (hb : h.phase ≠ .boot) : ∃ n t session, run n s = .next t ∧ Launched t ∧ AtCycleTop t session := by
  induction hk : h.phase.turnsLeft using Nat.strongRecOn generalizing s h with
  | ind k ih =>
    rcases Nat.eq_zero_or_pos k with rfl | hpos
    · obtain ⟨session, phase⟩ := h
      obtain rfl := phase_eq_cycle hb hk
      exact ⟨0, s, session, rfl, hl, hc, hh⟩
    · obtain ⟨m, u, turn, -, hrun, hlu, hcu, hd, hhu⟩ := run_turn hl hc hh
      obtain ⟨n, t, session, hrun', hlt, htop⟩ :=
        ih _ (hk ▸ hd.turnsLeft_lt (hk ▸ hpos)) hlu hcu hhu hd.phase_ne_boot rfl
      exact ⟨m + n, t, session, by rw [run_add hrun, hrun'], hlt, htop⟩

/-- Settles O60: one turn leaves the top of the cycle, the next ones lead back. -/
theorem outerCycleReturns : Obligations.OuterCycleReturns := by
  intro s session hl ⟨hc, hh⟩
  obtain ⟨m, u, turn, hm, hrun, hlu, hcu, hd, hhu⟩ := run_turn hl hc hh
  obtain ⟨n, t, session', hrun', hlt, htop⟩ := run_to_cycleTop hlu hcu hhu hd.phase_ne_boot
  exact ⟨m + n, t, session', by omega, by rw [run_add hrun, hrun'], hlt, htop⟩

end Sys2Proof.Machine
